-- ==== Sys2Proof/Word.lean ====
section
/-! DEFINITION. The bit-vector widths the spec names (spec/00_scope.md R8: every value is unsigned). -/

namespace Sys2Proof

/-- `u8` (00_scope.md R8): a task-file register, one byte of caller memory. -/
abbrev Byte := BitVec 8

/-- A word of the data port or of the identify buffer (20_memory.md R72, 10_state.md R38), and a port address (R70). -/
abbrev Word := BitVec 16

/-- `u32` (00_scope.md R8): sector indices and sector counts. -/
abbrev DWord := BitVec 32

/-- A caller address as the model holds it: `PTR_WIDTH` bits, at most 64 (00_scope.md R7; log 11). -/
abbrev Addr := BitVec 64

/-- One encoded request of the caller or of the interrupt source. DESIGN CHOICE (log 2): the spec gives the
selector and the operand widths (30_encoding.md R120, R121), not the places of the operands. -/
abbrev RequestWord := BitVec 144

end Sys2Proof
end

