-- ==== Sys2Proof/Config.lean ====
section
/-! DEFINITION. The implementation parameters of spec/00_scope.md R7, and the one free value: the device's draws. -/

namespace Sys2Proof

/-- `PTR_WIDTH` (00_scope.md R7): 32 or 64, left open by the spec. -/
inductive PtrWidth where
  | w32
  | w64
deriving DecidableEq, Repr

/-- The number of bits of a caller address. -/
def PtrWidth.bits : PtrWidth → Nat
  | .w32 => 32
  | .w64 => 64

/-- `IDENT_WORDS` (00_scope.md R7): the table gives it one value, "exactly 256 words", and 10_state.md R38 and
41_identify.md R182 give the buffer and the burst that size. Its type has that one value, so that the parameter is an
argument of the model like the others and no configuration departs from those rules. -/
inductive IdentWords where
  | w256
deriving DecidableEq, Repr

/-- The number of words in an IDENTIFY answer. -/
def IdentWords.count : IdentWords → Nat
  | .w256 => 256

/-- The parameters of 00_scope.md R7, all fourteen, with the spec's defaults. They stand in `State.cfg`, so that the model takes
them as arguments and no meaning can change them (log 6). -/
structure Config where
  /-- `IO_BASE`: the port of the Data register. -/
  ioBase : Word := 0x1F0#16
  /-- `CTRL_BASE`: the port of Alternate Status and Device Control. -/
  ctrlBase : Word := 0x3F6#16
  /-- `IRQ_LINE`: the line number given to the interrupt controller. -/
  irqLine : Nat := 14
  /-- `DRIVE_INDEX`: the drive that `initialize` selects. -/
  driveIndex : BitVec 1 := 0#1
  /-- `WAIT_BUDGET`: attempts of the three named waits. -/
  waitBudget : Nat := 3000
  /-- `POLL_BUDGET`: attempts of the busy poll after a command. -/
  pollBudget : Nat := 100000
  /-- `SELECT_BUDGET`: attempts of the busy poll after a drive select. -/
  selectBudget : Nat := 5
  /-- `WAIT400_READS`: Alternate Status reads that make the 400 ns delay. -/
  wait400Reads : Nat := 20
  /-- `RESET_HOLD_DELAYS`: `IoDelay` events while SRST is held. -/
  resetHoldDelays : Nat := 5
  /-- `RESET_POLL_BUDGET`: attempts of the busy poll after a reset. -/
  resetPollBudget : Nat := 280000
  /-- `DRAIN_BUDGET`: the most data words `initialize` discards. -/
  drainBudget : Nat := 256
  /-- `MULTIPLE_REQUEST`: the block size `initialize` asks for. -/
  multipleRequest : Byte := 8#8
  /-- `PTR_WIDTH`. DESIGN CHOICE (log 6): the spec leaves it open; 32 is what spec/95_test_vectors.md uses. -/
  ptrWidth : PtrWidth := .w32
  /-- `IDENT_WORDS`: the words of an IDENTIFY answer. -/
  identWords : IdentWords := .w256
deriving DecidableEq, Repr

/-- The parameters at the spec's defaults (00_scope.md R7). -/
def Config.default : Config := {}

/-- The ranges R7 and 40_register_protocol.md R140 give the parameters: no budget is 0 and `MULTIPLE_REQUEST` is at
least 1. DEDUCED (log 6): the nine registers of R11 stand at nine different ports (20_memory.md R70).
The distance is taken in 16 bits, as `portAddr` adds (log 16). -/
def Config.wf (c : Config) : Bool :=
  decide (0 < c.waitBudget) && decide (0 < c.pollBudget) && decide (0 < c.selectBudget) &&
  decide (0 < c.wait400Reads) && decide (0 < c.resetHoldDelays) && decide (0 < c.resetPollBudget) &&
  decide (0 < c.drainBudget) && decide (c.multipleRequest ≠ 0#8) &&
  decide (8 ≤ (c.ctrlBase - c.ioBase).toNat)

/-- The free value: the device's answer to its `n`-th port read, once the script of `State.script` has run out.
20_memory.md R74: "a value of its width that the model does not constrain". It has no body, so nothing rests on what
it is (log 5). -/
opaque Config.deviceDraw : Nat → Word

end Sys2Proof
end

