-- ==== Sys2Proof/Syntax.lean ====
section
/-! DEFINITION. The instructions: one constructor per row of spec/opcode_table.json, in the table's order: eleven ATA
commands (spec/30_encoding.md R110) and nineteen operations of the block (R120). -/

namespace Sys2Proof

/-- One request to the block. Operand types are the widths of 30_encoding.md R121; `buf` is a caller address of
`PTR_WIDTH` bits, which `Instr.wf` checks. -/
inductive Instr where
  /-- ATA command 0xEC (41_identify.md R181). -/
  | identifyDevice
  /-- ATA command 0x20 (42_command_transfer.md R226). -/
  | readSectors (buf : Addr) (start count : DWord)
  /-- ATA command 0x24 (R227). -/
  | readSectorsExt (buf : Addr) (start count : DWord)
  /-- ATA command 0xC4 (R228). -/
  | readMultiple (buf : Addr) (start count : DWord)
  /-- ATA command 0x29 (R229). -/
  | readMultipleExt (buf : Addr) (start count : DWord)
  /-- ATA command 0x30 (R230). -/
  | writeSectors (buf : Addr) (start count : DWord)
  /-- ATA command 0x34 (R231). -/
  | writeSectorsExt (buf : Addr) (start count : DWord)
  /-- ATA command 0xC5 (R232). -/
  | writeMultiple (buf : Addr) (start count : DWord)
  /-- ATA command 0x39 (R233). -/
  | writeMultipleExt (buf : Addr) (start count : DWord)
  /-- ATA command 0xE7 (R250). -/
  | flushCache
  /-- ATA command 0xC6 (R252). -/
  | setMultipleModeCommand (m : Byte)
  /-- Selector 0x01 (44_bringup_api.md R310). -/
  | initializeBlock
  /-- Selector 0x02 (42_command_transfer.md R240). -/
  | read (buf : Addr) (start count : DWord)
  /-- Selector 0x03 (R241). -/
  | write (buf : Addr) (start count : DWord)
  /-- Selector 0x04 (R250). -/
  | flush
  /-- Selector 0x05 (44_bringup_api.md R314). -/
  | setInterruptMode (enable : Bool)
  /-- Selector 0x06 (40_register_protocol.md R152). -/
  | getError
  /-- Selector 0x07 (41_identify.md R181). -/
  | identify
  /-- Selector 0x08 (40_register_protocol.md R150). -/
  | selectDrive (dev1 : BitVec 1)
  /-- Selector 0x09 (R151). -/
  | softwareReset
  /-- Selector 0x0A (R141). -/
  | waitBusy (target : Bool)
  /-- Selector 0x0B (R142). -/
  | waitDataRequest (target : Bool)
  /-- Selector 0x0C (R143). -/
  | waitDeviceReady (target : Bool)
  /-- Selector 0x0D (R144). -/
  | isBusy
  /-- Selector 0x0E (R145). -/
  | isDataRequestPending
  /-- Selector 0x0F (R146). -/
  | hasError
  /-- Selector 0x10 (R147). -/
  | wait400ns
  /-- Selector 0x11 (42_command_transfer.md R235). -/
  | transferUnit
  /-- Selector 0x12 (R252). -/
  | setMultipleMode (m : Byte)
  /-- Selector 0x20, the interrupt entry (43_interrupt_dispatcher.md R280). -/
  | onInterrupt
deriving DecidableEq, Repr

/-- The direction of a transfer (42_command_transfer.md R225). -/
inductive Dir where
  | read
  | write
deriving DecidableEq, Repr

/-- The eleven command bytes the block writes to `P_COMMAND` (30_encoding.md R110, R112). -/
inductive AtaOpcode where
  | identify
  | readSectors
  | readSectorsExt
  | readMultiple
  | readMultipleExt
  | writeSectors
  | writeSectorsExt
  | writeMultiple
  | writeMultipleExt
  | flushCache
  | setMultipleMode
deriving DecidableEq, Repr

end Sys2Proof
end

