-- ==== Sys2Proof/Machine/State.lean ====
section
/-! DEFINITION. The state of the machine, its value at reset, and why a step can stop. -/

namespace Sys2Proof.Machine

/-- The command tag (10_state.md R35). -/
inductive Tag where
  | none
  | read
  | write
  | readMultiple
  | writeMultiple
  | softReset
  | flushCache
  | identify
  | setMultiple
deriving DecidableEq, Repr

/-- The seven result codes (60_exceptions.md R340). -/
inductive ResultCode where
  | ok
  | timeout
  | deviceError
  | protocolViolation
  | capabilityAbsent
  | invalidArgument
  | busyRetry
deriving DecidableEq, Repr

/-- The value an operation returns beside its code (30_encoding.md R122). -/
inductive ResultValue where
  | none
  | bool (b : Bool)
  | byte (v : Byte)
deriving DecidableEq, Repr

/-- The result of an operation (00_scope.md R15: `(code)` or `(code, value)`). -/
structure OpResult where
  code : ResultCode
  value : ResultValue
deriving DecidableEq, Repr

/-- One external event of an operation (00_scope.md R10; the notation of R14 in brackets). `Log` events are not
observable and are omitted (R16; log 10). -/
inductive Event where
  /-- `PortRead8` (`R8 p -> v`). -/
  | portRead8 (p : Word) (v : Byte)
  /-- `PortRead16` (`R16 p -> v`). -/
  | portRead16 (p : Word) (v : Word)
  /-- `PortWrite8` (`W8 p = v`). -/
  | portWrite8 (p : Word) (v : Byte)
  /-- `PortWrite16` (`W16 p = v`). -/
  | portWrite16 (p : Word) (v : Word)
  /-- `IoDelay` (`DLY`). -/
  | ioDelay
  /-- `MemRead(a, 2)` (`MR a -> v`). -/
  | memRead (a : Nat) (v : Word)
  /-- `MemWrite(a, 2, v)` (`MW a = v`). -/
  | memWrite (a : Nat) (v : Word)
  /-- `MaskLine` (`MASK l`). -/
  | maskLine (l : Nat)
  /-- `UnmaskLine` (`UNMASK l`). -/
  | unmaskLine (l : Nat)
  /-- `SendEOI` (`EOI l`). -/
  | sendEOI (l : Nat)
deriving DecidableEq, Repr

/-- The descriptor fields that a parse of the IDENTIFY answer gives (10_state.md R32; 41_identify.md R189's record F). -/
structure Descriptor where
  lowerMaxNumSectors : DWord
  upperMaxNumSectors : DWord
  sectorSize : DWord
  hasMultipleCmd : Bool
  hasDma : Bool
  hasLba48 : Bool
  hasFlushExt : Bool
  maxMultipleSectorSize : Byte
  currentMultipleSectorSize : Byte
  maxAtaVersion : Byte
  udmaSupported : Byte
  udmaSelected : Byte
deriving DecidableEq, Repr

/-- A range of caller memory: `size` bytes from `base`. -/
structure Region where
  base : Nat
  size : Nat
deriving DecidableEq, Repr

/-- Caller memory (20_memory.md R70): cells at strictly rising addresses, none holding what an unlisted address
reads as (`Memory.wf`). -/
abbrev Memory := List Host.Cell

/-- What a byte of caller memory that is not listed reads as. DESIGN CHOICE (log 7): the spec gives caller memory no
contents at the start. -/
def Memory.unlisted : Byte := 0#8

/-- The identify buffer (10_state.md R38): 256 words. -/
abbrev IdentBuf := Vector Word 256

/-- The machine: the block's record `d` (10_state.md R30), the caller memory it reaches, its parameters, and the
model's own fields for what the caller, the interrupt source and the device do and for what is observed of a run. -/
structure State where
  /-- The parameters (00_scope.md R7), fixed for a run (10_state.md R53). -/
  cfg : Config
  /-- The descriptor fields of 41_identify.md R189 (10_state.md R32). -/
  desc : Descriptor
  /-- "a successful IDENTIFY has committed the fields above" (R32). -/
  identified : Bool
  /-- Interrupt mode (R32). -/
  intEnabled : Bool
  /-- The currently selected drive (R32). -/
  selectedDrive : BitVec 1
  /-- The active command tag (R32, R35). -/
  tag : Tag
  /-- The transfer cursor (R34): the next byte of caller memory to move, below `2 ^ PTR_WIDTH`. -/
  cursorPtr : Addr
  /-- The transfer cursor (R34): sectors still to move. -/
  remaining : DWord
  /-- The identify buffer (R38). -/
  identBuf : IdentBuf
  /-- Caller memory (20_memory.md R70). -/
  mem : Memory
  /-- The ranges of caller memory that admit no access (20_memory.md R79; log 8). -/
  holes : List Region
  /-- The model's own: the operations still to be invoked, oldest first (00_scope.md R6; log 1). -/
  requests : List RequestWord
  /-- The model's own: the device's next answers, oldest first (20_memory.md R74; log 5). -/
  script : List Word
  /-- The model's own: how many port reads were made, the argument of `Config.deviceDraw` (log 5). -/
  draws : Nat
  /-- The model's own: the events of the run so far, NEWEST FIRST (00_scope.md R17; log 10). -/
  trace : List Event
  /-- The model's own: the result of the last operation, none while none has returned (00_scope.md R17; log 10). -/
  result : Option OpResult
deriving DecidableEq, Repr

/-- Why the machine stops. -/
inductive Fault where
  /-- Raised by a unit transfer (42_command_transfer.md R235) at an access of caller memory that the memory does not
  admit: the operation "has no step there (it is stuck)" (20_memory.md R79, 00_scope.md R19). Safe: nothing is claimed
  of a machine that is stuck. -/
  | callerMemoryNotAdmitted (a : Nat)
deriving DecidableEq, Repr

/-- Why a request is not executed. -/
inductive Refusal where
  /-- An instruction without a meaning; `exec` has none left. Safe. -/
  | notModelled (mnemonic : String)
  /-- Raised by `step`: the code names no operation and no command (30_encoding.md R120, I10). Safe: nothing runs. -/
  | unknownSelector (code : Byte)
  /-- Raised by `step`: an operand outside its width, or a reserved field that is not 0 (30_encoding.md R121: "not a
  request the model can form"). Safe: nothing runs. -/
  | operandOutsideWidth (code : Byte)
deriving DecidableEq, Repr

/-- Every descriptor field at its reset value 0 (10_state.md R32, R54). -/
def Descriptor.reset : Descriptor where
  lowerMaxNumSectors := 0#32
  upperMaxNumSectors := 0#32
  sectorSize := 0#32
  hasMultipleCmd := false
  hasDma := false
  hasLba48 := false
  hasFlushExt := false
  maxMultipleSectorSize := 0#8
  currentMultipleSectorSize := 0#8
  maxAtaVersion := 0#8
  udmaSupported := 0#8
  udmaSelected := 0#8

/-- The machine right after the reset event (70_reset_and_hazards.md R380; 10_state.md R54): "every number 0, every
flag 0, ... tag = NONE". The identify buffer is unspecified there: zero is a DESIGN CHOICE (log 9). The parameters
have their defaults (00_scope.md R7; log 6). The caller has invoked nothing, the device has answered nothing, no byte
of caller memory is listed and all of it is admitted (log 1, log 5, log 7, log 8). -/
def State.reset : State where
  cfg := Config.default
  desc := Descriptor.reset
  identified := false
  intEnabled := false
  selectedDrive := 0#1
  tag := .none
  cursorPtr := 0#64
  remaining := 0#32
  identBuf := Vector.replicate 256 0#16
  mem := []
  holes := []
  requests := []
  script := []
  draws := 0
  trace := []
  result := Option.none

end Sys2Proof.Machine
end

