-- ==== Sys2Proof/Machine/Flags.lean ====
section
/-! DEFINITION. The status bits the block tests (spec/00_scope.md R12; 10_state.md R41), the Device Control values (R49)
and the numeric encodings of the tag (R35) and of the result codes (60_exceptions.md R340). -/

namespace Sys2Proof.Machine

/-- `BSY(s) = s[7]` (00_scope.md R12). -/
def statusBsy (s : Byte) : Bool := s.getLsbD 7

/-- `DRDY(s) = s[6]` (R12). -/
def statusDrdy (s : Byte) : Bool := s.getLsbD 6

/-- `DF(s) = s[5]`, the source's FAULT (R12). -/
def statusDf (s : Byte) : Bool := s.getLsbD 5

/-- `DEV(s) = s[4]` (R12); no rule reads it (10_state.md R41). -/
def statusDev (s : Byte) : Bool := s.getLsbD 4

/-- `DRQ(s) = s[3]` (R12). -/
def statusDrq (s : Byte) : Bool := s.getLsbD 3

/-- `ERR(s) = s[0]` (R12). -/
def statusErr (s : Byte) : Bool := s.getLsbD 0

/-- `FAILED(s) = ERR(s) or DF(s)` (R12). -/
def statusFailed (s : Byte) : Bool := statusErr s || statusDf s

/-- `BSY(s) = 0` and `DRQ(s) = 0`: the device reports itself idle (10_state.md R36 (a)). -/
def statusIdle (s : Byte) : Bool := !statusBsy s && !statusDrq s

/-- The code of a failure read from a status byte: `FAILED(s) ? DEVICE_ERROR : c` (42_command_transfer.md R224, R235). -/
def failedOr (s : Byte) (c : ResultCode) : ResultCode := if statusFailed s then .deviceError else c

/-- Device Control while reset is held: SRST = 1, nIEN = 1 (10_state.md R49; 30_encoding.md R109). -/
def devCtlReset : Byte := 0x06#8

/-- Device Control otherwise: nIEN = 0 in interrupt mode, 1 in polled mode (10_state.md R49; 30_encoding.md R109). -/
def devCtlMode (intEnabled : Bool) : Byte := if intEnabled then 0x00#8 else 0x02#8

/-- A tag of a read or write command (43_interrupt_dispatcher.md R280's data tags). -/
def Tag.isData : Tag → Bool
  | .read | .write | .readMultiple | .writeMultiple => true
  | .none | .softReset | .flushCache | .identify | .setMultiple => false

/-- `READ` and `READ_MULTIPLE` move device to memory (10_state.md R34). -/
def Tag.isRead : Tag → Bool
  | .read | .readMultiple => true
  | .none | .write | .writeMultiple | .softReset | .flushCache | .identify | .setMultiple => false

/-- The tags whose unit is a block of sectors (42_command_transfer.md R234). -/
def Tag.isMultiple : Tag → Bool
  | .readMultiple | .writeMultiple => true
  | .none | .read | .write | .softReset | .flushCache | .identify | .setMultiple => false

/-- The numeric encoding of the tag (10_state.md R35). -/
def Tag.value : Tag → Nat
  | .none => 0
  | .read => 1
  | .write => 2
  | .readMultiple => 3
  | .writeMultiple => 4
  | .softReset => 5
  | .flushCache => 6
  | .identify => 7
  | .setMultiple => 8

/-- The numeric encoding of a result code (60_exceptions.md R340). -/
def ResultCode.value : ResultCode → Nat
  | .ok => 0
  | .timeout => 1
  | .deviceError => 2
  | .protocolViolation => 3
  | .capabilityAbsent => 4
  | .invalidArgument => 5
  | .busyRetry => 6

/-- The boolean success the source's API returns (00_scope.md R15, 60_exceptions.md R341): `code == OK`. -/
def ResultCode.success (c : ResultCode) : Bool := decide (c = .ok)

end Sys2Proof.Machine
end

