-- ==== Sys2Proof/Machine/Operands.lean ====
section
/-! DEFINITION. Port names, command bytes, the task-file images of the six formats, opcode selection and the argument
checks (spec/00_scope.md R11; 30_encoding.md R100 to R111; 42_command_transfer.md R222, R234, R238, R239, R242). -/

namespace Sys2Proof.Machine

/-- The port symbols of 00_scope.md R11. -/
inductive Port where
  | data
  | error
  | features
  | count
  | lbaLo
  | lbaMid
  | lbaHi
  | drvHead
  | status
  | command
  | altStatus
  | devCtl
deriving DecidableEq, Repr

/-- The address of a port (00_scope.md R11; 10_state.md R40). DESIGN CHOICE (log 16): ports have 16 bits, and the spec
gives no rule for a base from which an offset passes 0xFFFF; the sum is taken in 16 bits, so it wraps to port 0. -/
def portAddr (c : Config) : Port → Word
  | .data => c.ioBase
  | .error | .features => c.ioBase + 1#16
  | .count => c.ioBase + 2#16
  | .lbaLo => c.ioBase + 3#16
  | .lbaMid => c.ioBase + 4#16
  | .lbaHi => c.ioBase + 5#16
  | .drvHead => c.ioBase + 6#16
  | .status | .command => c.ioBase + 7#16
  | .altStatus | .devCtl => c.ctrlBase

/-- The command byte (30_encoding.md R110). -/
def opcodeByte : AtaOpcode → Byte
  | .identify => 0xEC#8
  | .readSectors => 0x20#8
  | .readSectorsExt => 0x24#8
  | .readMultiple => 0xC4#8
  | .readMultipleExt => 0x29#8
  | .writeSectors => 0x30#8
  | .writeSectorsExt => 0x34#8
  | .writeMultiple => 0xC5#8
  | .writeMultipleExt => 0x39#8
  | .flushCache => 0xE7#8
  | .setMultipleMode => 0xC6#8

/-- `tagOf(op)`: the tag column of 30_encoding.md R110. -/
def tagOf : AtaOpcode → Tag
  | .identify => .identify
  | .readSectors | .readSectorsExt => .read
  | .readMultiple | .readMultipleExt => .readMultiple
  | .writeSectors | .writeSectorsExt => .write
  | .writeMultiple | .writeMultipleExt => .writeMultiple
  | .flushCache => .flushCache
  | .setMultipleMode => .setMultiple

/-- `M` of 30_encoding.md R111: multiple mode is on. -/
def multipleOn (d : Descriptor) : Bool := d.hasMultipleCmd && decide (d.currentMultipleSectorSize ≠ 0#8)

/-- `selectOpcode(dir)` (42_command_transfer.md R222): the table of 30_encoding.md R111. -/
def selectOpcode (d : Descriptor) : Dir → AtaOpcode
  | .read =>
    match d.hasLba48, multipleOn d with
    | false, false => .readSectors
    | true, false => .readSectorsExt
    | false, true => .readMultiple
    | true, true => .readMultipleExt
  | .write =>
    match d.hasLba48, multipleOn d with
    | false, false => .writeSectors
    | true, false => .writeSectorsExt
    | false, true => .writeMultiple
    | true, true => .writeMultipleExt

/-- The Drive/Head byte `0xE0 | (dev << 4) | low` (10_state.md R47). -/
def drvHeadByte (dev : BitVec 1) (low : BitVec 4) : Byte := 0xE0#8 ||| (dev.setWidth 8 <<< 4) ||| low.setWidth 8

/-- Bits `8k+7 .. 8k` of a sector index or count (30_encoding.md R102, R103). -/
def dwordByte (v : DWord) (k : Nat) : Byte := v.extractLsb' (8 * k) 8

/-- The register writes of format LBA28 before the opcode, in order (30_encoding.md R102). -/
def imageLba28 (dev : BitVec 1) (start count : DWord) : List (Port × Byte) :=
  [(.drvHead, drvHeadByte dev (start.extractLsb' 24 4)), (.count, dwordByte count 0), (.lbaLo, dwordByte start 0),
   (.lbaMid, dwordByte start 1), (.lbaHi, dwordByte start 2)]

/-- The register writes of format LBA48 before the opcode, in order (30_encoding.md R103). -/
def imageLba48 (dev : BitVec 1) (start count : DWord) : List (Port × Byte) :=
  [(.drvHead, drvHeadByte dev 0#4), (.count, dwordByte count 1), (.lbaLo, dwordByte start 3), (.lbaMid, 0x00#8),
   (.lbaHi, 0x00#8), (.count, dwordByte count 0), (.lbaLo, dwordByte start 0), (.lbaMid, dwordByte start 1),
   (.lbaHi, dwordByte start 2)]

/-- The register writes of a read or write command before the opcode (42_command_transfer.md R222, R225). -/
def imageRW (lba48 : Bool) (dev : BitVec 1) (start count : DWord) : List (Port × Byte) :=
  if lba48 then imageLba48 dev start count else imageLba28 dev start count

/-- `countCheck(count)` (42_command_transfer.md R238). -/
def countOk (d : Descriptor) (count : DWord) : Bool :=
  decide (count ≠ 0#32) && decide (count.toNat ≤ if d.hasLba48 then 65535 else 255)

/-- The limit of `boundsCheck` (42_command_transfer.md R242). -/
def sectorLimit (d : Descriptor) : Nat :=
  let limit := if d.upperMaxNumSectors ≠ 0#32 then 2 ^ 32 else d.lowerMaxNumSectors.toNat
  if d.hasLba48 then limit else min limit (2 ^ 28)

/-- `boundsCheck(start, count)` (R242), on natural numbers. -/
def boundsOk (d : Descriptor) (start count : DWord) : Bool := decide (start.toNat + count.toNat ≤ sectorLimit d)

/-- `bufferCheck(buf, count)` (R239), on natural numbers. -/
def bufferOk (c : Config) (d : Descriptor) (buf : Addr) (count : DWord) : Bool :=
  decide (buf ≠ 0#64) &&
  decide (buf.toNat + 2 * count.toNat * d.sectorSize.toNat < 2 ^ c.ptrWidth.bits)

/-- The argument checks of a read or write, in the order of 42_command_transfer.md R225; all of them answer
`INVALID_ARGUMENT`. -/
def argsOk (c : Config) (d : Descriptor) (buf : Addr) (start count : DWord) : Bool :=
  countOk d count && boundsOk d start count && bufferOk c d buf count

/-- `unitSectors()` (42_command_transfer.md R234): the sectors one DRQ assertion moves. -/
def unitSectors (s : State) : Nat :=
  if s.tag.isMultiple then min s.remaining.toNat s.desc.currentMultipleSectorSize.toNat else 1

/-- `W` of 42_command_transfer.md R235: the words of the next unit. -/
def unitWords (s : State) : Nat := unitSectors s * s.desc.sectorSize.toNat

/-- A value written into a caller address field of `PTR_WIDTH` bits keeps its low bits (00_scope.md R8). -/
def toPtr (c : Config) (a : Nat) : Addr := BitVec.ofNat 64 (a % 2 ^ c.ptrWidth.bits)

end Sys2Proof.Machine
end

