-- ==== Sys2Proof/Machine/Ops.lean ====
section
/-! DEFINITION. The named operations: caller memory, the device oracle, the external primitives of spec/00_scope.md R10,
the updates of the block's record, how an operation ends, and how the block enters and leaves an interrupt. -/

namespace Sys2Proof.Machine

/-! ## Caller memory -/

/-- The byte at an address (20_memory.md R70). -/
def Memory.read (m : Memory) (a : Nat) : Byte :=
  match m with
  | [] => Memory.unlisted
  | (k, v) :: rest => if a = k then v else Memory.read rest a

/-- Store a byte, keeping the canonical form: a cell that would hold what an unlisted address reads as is left out. -/
def Memory.write (m : Memory) (a : Nat) (b : Byte) : Memory :=
  match m with
  | [] => if b = Memory.unlisted then [] else [(a, b)]
  | (k, v) :: rest =>
    if a < k then (if b = Memory.unlisted then (k, v) :: rest else (a, b) :: (k, v) :: rest)
    else if a = k then (if b = Memory.unlisted then rest else (a, b) :: rest)
    else (k, v) :: Memory.write rest a b

/-- Every address of the list is above `lo`, and the addresses rise strictly. -/
def Memory.risingFrom (lo : Nat) (m : Memory) : Bool :=
  match m with
  | [] => true
  | (k, v) :: rest => decide (lo ≤ k) && decide (v ≠ Memory.unlisted) && Memory.risingFrom (k + 1) rest

/-- The canonical form of caller memory. -/
def Memory.wf (m : Memory) : Bool := Memory.risingFrom 0 m

/-- An address lies in a region. -/
def Region.contains (r : Region) (a : Nat) : Bool := decide (r.base ≤ a) && decide (a < r.base + r.size)

/-- Caller memory admits an access to a byte (20_memory.md R79): the address is one of `PTR_WIDTH` bits and lies in no
hole. -/
def State.admits (s : State) (a : Nat) : Bool :=
  decide (a < 2 ^ s.cfg.ptrWidth.bits) && !(s.holes.any fun r => r.contains a)

/-! ## Events -/

/-- Record an event (00_scope.md R10, R17). -/
def State.emit (s : State) (e : Event) : State := { s with trace := e :: s.trace }

/-- The device's next answer (20_memory.md R74): the head of the script, or the free value `Config.deviceDraw` when the
script has run out. -/
def State.answer (s : State) : Word :=
  match s.script with
  | [] => Config.deviceDraw s.draws
  | w :: _ => w

/-- The state after the device has answered. -/
def State.answered (s : State) : State := { s with script := s.script.tail, draws := s.draws + 1 }

/-- `PortRead8(p)` (00_scope.md R10): the low byte of the device's answer. -/
def portRead8 (p : Port) (s : State) : Byte × State :=
  let v : Byte := s.answer.setWidth 8
  (v, s.answered.emit (.portRead8 (portAddr s.cfg p) v))

/-- `PortRead16(p)`. -/
def portRead16 (p : Port) (s : State) : Word × State :=
  (s.answer, s.answered.emit (.portRead16 (portAddr s.cfg p) s.answer))

/-- `PortWrite8(p, v)`: every port write is accepted (20_memory.md R74). -/
def portWrite8 (p : Port) (v : Byte) (s : State) : State := s.emit (.portWrite8 (portAddr s.cfg p) v)

/-- `PortWrite16(p, v)`. -/
def portWrite16 (p : Port) (v : Word) (s : State) : State := s.emit (.portWrite16 (portAddr s.cfg p) v)

/-- The register writes of an image, in order (30_encoding.md R100). -/
def portWrites (ws : List (Port × Byte)) (s : State) : State := ws.foldl (fun s w => portWrite8 w.1 w.2 s) s

/-- `IoDelay()`. -/
def ioDelay (s : State) : State := s.emit .ioDelay

/-- `n` `IoDelay` events. -/
def ioDelays : Nat → State → State
  | 0, s => s
  | n + 1, s => ioDelays n (ioDelay s)

/-- `MemRead(a, 2)`: little-endian (20_memory.md R77); stuck where the memory does not admit the access (R79). -/
def memRead16 (a : Nat) (s : State) : Except Fault (Word × State) :=
  if s.admits a && s.admits (a + 1) then
    let v : Word := Memory.read s.mem (a + 1) ++ Memory.read s.mem a
    .ok (v, s.emit (.memRead a v))
  else .error (.callerMemoryNotAdmitted a)

/-- `MemWrite(a, 2, v)`: `v[7:0]` at `a` and `v[15:8]` at `a + 1` (R77); stuck where not admitted (R79). -/
def memWrite16 (a : Nat) (v : Word) (s : State) : Except Fault State :=
  if s.admits a && s.admits (a + 1) then
    .ok ({ s with mem := Memory.write (Memory.write s.mem a (v.extractLsb' 0 8)) (a + 1) (v.extractLsb' 8 8) }.emit
      (.memWrite a v))
  else .error (.callerMemoryNotAdmitted a)

/-- `MaskLine(IRQ_LINE)` or `UnmaskLine(IRQ_LINE)` (44_bringup_api.md R314). -/
def lineMask (enable : Bool) (s : State) : State :=
  s.emit (if enable then .unmaskLine s.cfg.irqLine else .maskLine s.cfg.irqLine)

/-! ## The block's record -/

/-- Write the command tag (10_state.md R36). -/
def State.setTag (s : State) (t : Tag) : State := { s with tag := t }

/-- Write the transfer cursor (10_state.md R34). -/
def State.setCursor (s : State) (p : Addr) (n : DWord) : State := { s with cursorPtr := p, remaining := n }

/-- `clearCursor()` (R34). -/
def State.clearCursor (s : State) : State := s.setCursor 0#64 0#32

/-- `d.tag <- NONE; clearCursor()`: the end of a command (R36). -/
def State.endCommand (s : State) : State := (s.setTag .none).clearCursor

/-- `d.intEnabled <- e` (10_state.md R32). -/
def State.setIntEnabled (s : State) (e : Bool) : State := { s with intEnabled := e }

/-- `d.identified <- b` (R32). -/
def State.setIdentified (s : State) (b : Bool) : State := { s with identified := b }

/-- `d.selectedDrive <- v` (R32). -/
def State.setSelectedDrive (s : State) (v : BitVec 1) : State := { s with selectedDrive := v }

/-- `d.currentMultipleSectorSize <- m` (R32). -/
def State.setCurrentMultiple (s : State) (m : Byte) : State :=
  { s with desc := { s.desc with currentMultipleSectorSize := m } }

/-- `commit(F)` (41_identify.md R189): the twelve fields of F, and `d.identified <- 1`, in one step. -/
def State.commit (s : State) (f : Descriptor) : State := { s with desc := f, identified := true }

/-- `d.identBuf <- w` (41_identify.md R182). -/
def State.setIdentBuf (s : State) (w : IdentBuf) : State := { s with identBuf := w }

/-! ## The end of an operation

A failure is a result code, never a trap (60_exceptions.md R344): there is no exception entry. `return C` writes the
result and is the next state; a stuck access of caller memory is the only fault (20_memory.md R79). -/

/-- What an operation that touches no caller memory answers: its code and the state it leaves. -/
abbrev OpOut := ResultCode × State

/-- What an operation that may touch caller memory answers. -/
abbrev MemOut := Except Fault OpOut

/-- `r <- X; if r != OK: return r`, and go on with `k`. -/
def OpOut.andThen (r : OpOut) (k : State → OpOut) : OpOut :=
  match r.1 with
  | .ok => k r.2
  | _ => r

/-- The same where what follows may touch caller memory. -/
def OpOut.andThenMem (r : OpOut) (k : State → MemOut) : MemOut :=
  match r.1 with
  | .ok => k r.2
  | _ => .ok r

/-- The same after a step that may touch caller memory. -/
def MemOut.andThen (r : MemOut) (k : State → MemOut) : MemOut :=
  match r with
  | .error f => .error f
  | .ok o => OpOut.andThenMem o k

/-- The result of an operation (00_scope.md R10's `return C`, R15). -/
def State.setResult (s : State) (c : ResultCode) (v : ResultValue) : State := { s with result := some ⟨c, v⟩ }

/-- End an operation that returns a code. -/
def finish (r : OpOut) : Host.Outcome State Fault Refusal := .next (r.2.setResult r.1 .none)

/-- End an operation that returns `OK` and a value. -/
def finishValue (v : ResultValue) (s : State) : Host.Outcome State Fault Refusal := .next (s.setResult .ok v)

/-- End an operation that may have been stuck at an access of caller memory. -/
def finishMem (r : MemOut) : Host.Outcome State Fault Refusal :=
  match r with
  | .ok o => finish o
  | .error f => .fault f

/-! ## Interrupt entry and return (60_exceptions.md R347 to R349) -/

/-- Interrupt entry: the block saves no state and changes no mode or mask (R348); the first event reads `P_STATUS`,
which clears the device's pending interrupt (43_interrupt_dispatcher.md R280; 20_memory.md R73). -/
def interruptEntry (s : State) : Byte × State := portRead8 .status s

/-- Interrupt return: nothing is restored (60_exceptions.md R349); the last event is `SendEOI(IRQ_LINE)`, on every
path (43_interrupt_dispatcher.md R282). -/
def interruptReturn (r : OpOut) : OpOut := (r.1, r.2.emit (.sendEOI r.2.cfg.irqLine))

end Sys2Proof.Machine
end

