-- ==== Sys2Proof/Machine/RegisterProtocol.lean ====
section
/-! DEFINITION. The register protocol layer (spec/40_register_protocol.md): bounded waits, single-shot tests, the 400 ns
delay, drive select, software reset and the Error register. -/

namespace Sys2Proof.Machine

/-- `waitBit(bit, target, budget)` (R140): at most `budget` Alternate Status reads, an `IoDelay` between attempts. -/
def waitBit (bit : Nat) (target : Bool) : Nat → State → OpOut
  | 0, s => (.timeout, s)
  | n + 1, s =>
    let r := portRead8 .altStatus s
    if r.1.getLsbD bit = target then (.ok, r.2)
    else if n = 0 then (.timeout, r.2)
    else waitBit bit target n (ioDelay r.2)

/-- The busy poll of a bounded wait: `waitBit(7, 0, budget)` (30_encoding.md R124). -/
def pollBusy (budget : Nat) (s : State) : OpOut := waitBit 7 false budget s

/-- `n` Alternate Status reads whose values are discarded. -/
def altStatusReads : Nat → State → State
  | 0, s => s
  | n + 1, s => altStatusReads n (portRead8 .altStatus s).2

/-- The 400 ns delay (R147): exactly `WAIT400_READS` reads and no `IoDelay`. -/
def wait400 (s : State) : State := altStatusReads s.cfg.wait400Reads s

/-- Drive select (R150). -/
def driveSelect (dev1 : BitVec 1) (s : State) : OpOut :=
  if s.tag ≠ .none then (.protocolViolation, s)
  else
    let r := portRead8 .altStatus s
    if statusBsy r.1 || statusDrq r.1 then (.protocolViolation, r.2)
    else
      let s1 := wait400 (portWrite8 .drvHead (drvHeadByte dev1 0#4) r.2)
      OpOut.andThen (pollBusy s1.cfg.selectBudget s1) fun s2 =>
        let q := portRead8 .altStatus s2
        if statusFailed q.1 then (.deviceError, q.2) else (.ok, q.2.setSelectedDrive dev1)

/-- The reset sequence of R151 after its precondition: SRST held and released, then the poll. -/
def resetSequence (s : State) : OpOut :=
  let s1 := portWrite8 .devCtl devCtlReset ((s.setIntEnabled false).setTag .softReset)
  let s2 := portWrite8 .devCtl (devCtlMode false) (ioDelays s1.cfg.resetHoldDelays s1)
  let s3 := wait400 s2
  pollBusy s3.cfg.resetPollBudget s3

/-- Software reset (R151): `intEnabled` is restored on success only; the tag is `NONE` at every exit after the
precondition. -/
def reset (s : State) : OpOut :=
  let r := portRead8 .altStatus s
  if statusBsy r.1 then (.protocolViolation, r.2)
  else
    let saved := r.2.intEnabled
    match resetSequence r.2 with
    | (.ok, s1) =>
      let q := portRead8 .altStatus s1
      if statusFailed q.1 then (.deviceError, q.2.endCommand)
      else
        let s2 := portWrite8 .devCtl (devCtlMode saved) (q.2.setIntEnabled saved)
        (.ok, (s2.setSelectedDrive 0#1).endCommand)
    | (_, s1) => (.timeout, s1.endCommand)

/-- A single-shot test of the Alternate Status register (R144 to R146): one read, no wait. -/
def statusTest (test : Byte → Bool) (s : State) : Host.Outcome State Fault Refusal :=
  let r := portRead8 .altStatus s
  finishValue (.bool (test r.1)) r.2

/-- `waitBusy(target)` (R141). -/
def execWaitBusy (target : Bool) (s : State) : Host.Outcome State Fault Refusal :=
  finish (waitBit 7 target s.cfg.waitBudget s)

/-- `waitDataRequest(target)` (R142). -/
def execWaitDataRequest (target : Bool) (s : State) : Host.Outcome State Fault Refusal :=
  finish (waitBit 3 target s.cfg.waitBudget s)

/-- `waitDeviceReady(target)` (R143). -/
def execWaitDeviceReady (target : Bool) (s : State) : Host.Outcome State Fault Refusal :=
  finish (waitBit 6 target s.cfg.waitBudget s)

/-- `isBusy()` (R144). -/
def execIsBusy (s : State) : Host.Outcome State Fault Refusal := statusTest statusBsy s

/-- `isDataRequestPending()` (R145). -/
def execIsDataRequestPending (s : State) : Host.Outcome State Fault Refusal := statusTest statusDrq s

/-- `hasError()` (R146): ERR or DF. -/
def execHasError (s : State) : Host.Outcome State Fault Refusal := statusTest statusFailed s

/-- `wait400ns()` (R147). -/
def execWait400ns (s : State) : Host.Outcome State Fault Refusal := finish (.ok, wait400 s)

/-- `selectDrive(dev1)` (R150). -/
def execSelectDrive (dev1 : BitVec 1) (s : State) : Host.Outcome State Fault Refusal := finish (driveSelect dev1 s)

/-- `softwareReset()` (R151). -/
def execSoftwareReset (s : State) : Host.Outcome State Fault Refusal := finish (reset s)

/-- `getError()` (R152): the raw Error byte. -/
def execGetError (s : State) : Host.Outcome State Fault Refusal :=
  let r := portRead8 .error s
  finishValue (.byte r.1) r.2

end Sys2Proof.Machine
end

