-- ==== Sys2Proof/Machine/Commands.lean ====
section
/-! DEFINITION. The issue helpers shared by every device command, and FLUSH CACHE and SET MULTIPLE MODE
(spec/42_command_transfer.md R220 to R224, R250, R252). -/

namespace Sys2Proof.Machine

/-- `commandGuard()` (R220): identified, and no command active; no port access. -/
def commandGuard (s : State) : OpOut :=
  if !s.identified then (.protocolViolation, s)
  else if s.tag ≠ .none then (.protocolViolation, s)
  else (.ok, s)

/-- `checkReady()` (R221): BSY = 0, then DRQ = 0, then DRDY = 1, each waited for. -/
def checkReady (s : State) : OpOut :=
  OpOut.andThen (waitBit 7 false s.cfg.waitBudget s) fun s1 =>
  OpOut.andThen (waitBit 3 false s1.cfg.waitBudget s1) fun s2 =>
  waitBit 6 true s2.cfg.waitBudget s2

/-- `immediateErrorCheck()` (R223): BSY clear and ERR set ends the command. -/
def immediateErrorCheck (s : State) : OpOut :=
  let r := portRead8 .altStatus (wait400 s)
  if !statusBsy r.1 && statusErr r.1 then (.deviceError, r.2.endCommand) else (.ok, r.2)

/-- Write a command byte, record the command in the tag (10_state.md R36), and check for an immediate error. -/
def issueCommand (op : AtaOpcode) (s : State) : OpOut :=
  immediateErrorCheck ((portWrite8 .command (opcodeByte op) s).setTag (tagOf op))

/-- `finishCheck()` (R224): the tag returns to `NONE` only on an idle status. -/
def finishCheck (s : State) : OpOut :=
  let r := portRead8 .altStatus s
  if statusIdle r.1 then (failedOr r.1 .ok, r.2.endCommand) else (.protocolViolation, r.2)

/-- The end of a polled command without data (R250, R252): the busy poll, then the finish check. -/
def pollFinish (s : State) : OpOut := OpOut.andThen (pollBusy s.cfg.pollBudget s) finishCheck

/-- FLUSH CACHE (R250). -/
def flushCommand (s : State) : OpOut :=
  OpOut.andThen (commandGuard s) fun s =>
  OpOut.andThen (checkReady s) fun s =>
  OpOut.andThen (issueCommand .flushCache s) fun s =>
  if s.intEnabled then (.ok, s) else pollFinish s

/-- The operand check of R252. -/
def multipleArgOk (d : Descriptor) (m : Byte) : Bool :=
  decide (m ≠ 0#8) && d.hasMultipleCmd && decide (m.toNat ≤ d.maxMultipleSectorSize.toNat)

/-- SET MULTIPLE MODE (R252): the block size is recorded on success only. -/
def setMultipleCommand (m : Byte) (s : State) : OpOut :=
  OpOut.andThen (commandGuard s) fun s =>
  if s.intEnabled then (.protocolViolation, s)
  else if !multipleArgOk s.desc m then (.invalidArgument, s)
  else
    OpOut.andThen (checkReady s) fun s =>
    OpOut.andThen (issueCommand .setMultipleMode (portWrite8 .count m s)) fun s =>
    OpOut.andThen (pollFinish s) fun s => (.ok, s.setCurrentMultiple m)

/-- ATA command FLUSH_CACHE, 0xE7 (30_encoding.md R110): rule R250, as the operation `flush` (log 14). -/
def execFlushCache (s : State) : Host.Outcome State Fault Refusal := finish (flushCommand s)

/-- `flush()` (R250). -/
def execFlush (s : State) : Host.Outcome State Fault Refusal := finish (flushCommand s)

/-- ATA command SET_MULTIPLE_MODE, 0xC6 (30_encoding.md R110): rule R252, as the operation
`setMultipleMode` (log 14). -/
def execSetMultipleModeCommand (m : Byte) (s : State) : Host.Outcome State Fault Refusal :=
  finish (setMultipleCommand m s)

/-- `setMultipleMode(m)` (R252). -/
def execSetMultipleMode (m : Byte) (s : State) : Host.Outcome State Fault Refusal := finish (setMultipleCommand m s)

end Sys2Proof.Machine
end

