-- ==== Sys2Proof/Machine/Identify.lean ====
section
/-! DEFINITION. Device identification (spec/41_identify.md): the parse of the 256-word answer, its data phase and the
IDENTIFY command. -/

namespace Sys2Proof.Machine

/-! ## The parser (R183 to R192; the words and bits of 30_encoding.md R115) -/

/-- `w[n][i]` (20_memory.md R80). -/
def identBit (w : IdentBuf) (n : Fin 256) (i : Nat) : Bool := w[n].getLsbD i

/-- The 32-bit value of two words, the lower-numbered word low (R188). -/
def identPair (w : IdentBuf) (lo hi : Fin 256) : DWord := w[hi] ++ w[lo]

/-- The low byte of a word. -/
def identLow (w : IdentBuf) (n : Fin 256) : Byte := w[n].extractLsb' 0 8

/-- The mandatory checks (R184): an ATA device, with LBA and FLUSH. -/
def identMandatory (w : IdentBuf) : Bool := !identBit w 0 15 && identBit w 49 9 && identBit w 83 13

/-- Scan bits `base + top` down to `base` for the first set one, and give its distance from `base`. -/
def scanDown (v : Word) (base : Nat) : Nat → Option Nat
  | 0 => if v.getLsbD base then some 0 else none
  | i + 1 => if v.getLsbD (base + (i + 1)) then some (i + 1) else scanDown v base i

/-- Word 80 (R190): the highest set bit of 8:2; 0 where unreported. -/
def parseAtaVersion (v : Word) : Byte :=
  if v = 0x0000#16 ∨ v = 0xFFFF#16 then 0#8
  else
    match scanDown v 2 6 with
    | some i => BitVec.ofNat 8 (i + 2)
    | none => 0#8

/-- A sub-field of word 88 (R191): the highest set bit of `base + top` down to `base`, or 0xFF for no mode. -/
def parseUdma (w88 : Word) (base top : Nat) : Byte :=
  match scanDown w88 base top with
  | some i => BitVec.ofNat 8 i
  | none => 0xFF#8

/-- Word 88, taken as 0 where bit 2 of word 53 is clear (R191). -/
def udmaWord (w : IdentBuf) : Word := if identBit w 53 2 then w[(88 : Fin 256)] else 0#16

/-- The highest UDMA bit looked at (R191): bit 6, or bit 5 below ATA version 8. -/
def udmaTop (version : Byte) : Nat := if 8 ≤ version.toNat then 6 else 5

/-- Words 117 and 118 (R192): the sector size in words, 256 where it is not trusted or 0. -/
def parseSectorSize (w : IdentBuf) (version : Byte) : DWord :=
  if 8 ≤ version.toNat ∧ identPair w 117 118 ≠ 0#32 then identPair w 117 118 else 256#32

/-- Word 61 above 0x0FFF selects words 100 to 103 (R188). -/
def identExtended (w : IdentBuf) : Bool := decide (0x0FFF < w[(61 : Fin 256)].toNat)

/-- The record F (R185 to R192). -/
def identFields (w : IdentBuf) : Descriptor where
  lowerMaxNumSectors := if identExtended w then identPair w 100 101 else identPair w 60 61
  upperMaxNumSectors := if identExtended w then identPair w 102 103 else 0#32
  sectorSize := parseSectorSize w (parseAtaVersion w[(80 : Fin 256)])
  hasMultipleCmd := decide (identLow w 47 ≠ 0#8)
  hasDma := identBit w 49 8
  hasLba48 := identBit w 83 10
  hasFlushExt := identBit w 83 12
  maxMultipleSectorSize := identLow w 47
  currentMultipleSectorSize := if identBit w 59 8 then identLow w 59 else 0#8
  maxAtaVersion := parseAtaVersion w[(80 : Fin 256)]
  udmaSupported := parseUdma (udmaWord w) 0 (udmaTop (parseAtaVersion w[(80 : Fin 256)]))
  udmaSelected := parseUdma (udmaWord w) 8 (udmaTop (parseAtaVersion w[(80 : Fin 256)]))

/-- `parseIdentify(w)` (R183): nothing where a mandatory check fails, else F. -/
def parseIdentify (w : IdentBuf) : Option Descriptor := if identMandatory w then some (identFields w) else none

/-! ## The data phase and the command -/

/-- `n` reads of the Data register, in order. -/
def dataReads : Nat → State → List Word × State
  | 0, s => ([], s)
  | n + 1, s =>
    let r := portRead16 .data s
    let q := dataReads n r.2
    (r.1 :: q.1, q.2)

/-- The identify buffer that 256 words fill. -/
def identBufOf (ws : List Word) : IdentBuf := Vector.ofFn fun i => ws.getD i.val 0#16

/-- The burst of R182: `IDENT_WORDS` words (00_scope.md R7: 256) into the identify buffer, then the parse and its commit. -/
def identBurst (s : State) : OpOut :=
  let r := dataReads s.cfg.identWords.count s
  let s1 := r.2.setIdentBuf (identBufOf r.1)
  match parseIdentify s1.identBuf with
  | some f => (.ok, s1.commit f)
  | none => (.capabilityAbsent, s1.setIdentified false)

/-- `identifyData()` (R182): the data phase, shared by the polled path and the dispatcher. -/
def identifyData (s : State) : OpOut :=
  let r := portRead8 .altStatus s
  if statusBsy r.1 then (.busyRetry, r.2)
  else if !statusDrq r.1 then (failedOr r.1 .protocolViolation, r.2.endCommand)
  else identBurst r.2

/-- The end of the polled IDENTIFY after a data phase that moved the words (R181): the wait, the second poll and the
finish check; a parse failure `p` is reported before a finish failure. -/
def identifyFinish (p : ResultCode) (s : State) : OpOut :=
  let s1 := wait400 s
  OpOut.andThen (pollBusy s1.cfg.pollBudget s1) fun s2 =>
    let f := finishCheck s2
    (if p = .ok then f.1 else p, f.2)

/-- The polled data phase of IDENTIFY (R181). -/
def identifyPolled (s : State) : OpOut :=
  OpOut.andThen (pollBusy s.cfg.pollBudget s) fun s1 =>
    let p := identifyData s1
    if p.1 = .busyRetry then p
    else if p.2.tag = .none then p
    else identifyFinish p.1 p.2

/-- The IDENTIFY command (R181). -/
def identifyCommand (s : State) : OpOut :=
  if s.tag ≠ .none then (.protocolViolation, s)
  else
    let r := portRead8 .altStatus s
    if statusBsy r.1 || statusDrq r.1 || !statusDrdy r.1 then (.protocolViolation, r.2)
    else
      OpOut.andThen (issueCommand .identify r.2) fun s1 =>
        if s1.intEnabled then (.ok, s1) else identifyPolled s1

/-- ATA command IDENTIFY, 0xEC (30_encoding.md R110): rule R181, as the operation `identify` (log 14). -/
def execIdentifyDevice (s : State) : Host.Outcome State Fault Refusal := finish (identifyCommand s)

/-- `identify()` (R181). -/
def execIdentify (s : State) : Host.Outcome State Fault Refusal := finish (identifyCommand s)

end Sys2Proof.Machine
end

