-- ==== Sys2Proof/Machine/Bringup.lean ====
section
/-! DEFINITION. Bring-up and mode operations (spec/44_bringup_api.md). -/

namespace Sys2Proof.Machine

/-- `negotiateMultiple()` (R311): the request, clamped to the device's maximum. -/
def negotiateMultiple (s : State) : OpOut :=
  if !s.desc.hasMultipleCmd then (.ok, s.setCurrentMultiple 0#8)
  else
    setMultipleCommand
      (if s.cfg.multipleRequest.toNat ≤ s.desc.maxMultipleSectorSize.toNat then s.cfg.multipleRequest
       else s.desc.maxMultipleSectorSize) s

/-- The loop of `drain()` (R313): at most the given number of words are discarded. -/
def drainLoop : Nat → State → State
  | 0, s => s
  | n + 1, s =>
    let r := portRead8 .altStatus s
    if statusDrq r.1 then drainLoop n (portRead16 .data r.2).2 else r.2

/-- `drain()` (R313): one Status read, then the stale words. -/
def drain (s : State) : State :=
  let s1 := (portRead8 .status s).2
  drainLoop s1.cfg.drainBudget s1

/-- The last steps of `initialize` (R312, R313): the Drive/Head read-back, then the drain. -/
def confirmAndDrain (s : State) : OpOut :=
  let r := portRead8 .drvHead s
  if r.1.getLsbD 4 ≠ s.cfg.driveIndex.getLsbD 0 then (.protocolViolation, r.2) else (.ok, drain r.2)

/-- `initialize()` (R310). -/
def bringUp (s : State) : OpOut :=
  OpOut.andThen (reset ((s.setIntEnabled false).setIdentified false)) fun s =>
  OpOut.andThen (driveSelect s.cfg.driveIndex s) fun s =>
  OpOut.andThen (identifyCommand s) fun s =>
  OpOut.andThen (negotiateMultiple s) confirmAndDrain

/-- `setInterruptMode(enable)` (R314). -/
def interruptMode (enable : Bool) (s : State) : OpOut :=
  if s.tag ≠ .none then (.protocolViolation, s)
  else (.ok, lineMask enable (portWrite8 .devCtl (devCtlMode enable) (s.setIntEnabled enable)))

/-- `initialize()` (R310). -/
def execInitialize (s : State) : Host.Outcome State Fault Refusal := finish (bringUp s)

/-- `setInterruptMode(enable)` (R314). -/
def execSetInterruptMode (enable : Bool) (s : State) : Host.Outcome State Fault Refusal :=
  finish (interruptMode enable s)

end Sys2Proof.Machine
end

