-- ==== Sys2Proof/Machine/Transfer.lean ====
section
/-! DEFINITION. The unit transfer, the polled data phase, and the read and write commands
(spec/42_command_transfer.md R225 to R241). -/

namespace Sys2Proof.Machine

/-! ## The unit transfer (sector_data_port_fifo) -/

/-- Move `n` words from the Data register to caller memory from address `a` (R235, device to memory). -/
def moveIn : Nat → Nat → State → Except Fault State
  | 0, _, s => .ok s
  | n + 1, a, s =>
    let r := portRead16 .data s
    match memWrite16 a r.1 r.2 with
    | .error f => .error f
    | .ok s1 => moveIn n (a + 2) s1

/-- Move `n` words from caller memory at `a` to the Data register (R235, memory to device). -/
def moveOut : Nat → Nat → State → Except Fault State
  | 0, _, s => .ok s
  | n + 1, a, s =>
    match memRead16 a s with
    | .error f => .error f
    | .ok r => moveOut n (a + 2) (portWrite16 .data r.1 r.2)

/-- The burst of R235, in the direction the tag gives (10_state.md R34). -/
def moveUnit (s : State) : Except Fault State :=
  if s.tag.isRead then moveIn (unitWords s) s.cursorPtr.toNat s else moveOut (unitWords s) s.cursorPtr.toNat s

/-- The cursor after a unit (R235, R237): it advances by the words moved, `remaining` falls by the sectors moved. -/
def advanceCursor (before : State) (s : State) : State :=
  s.setCursor (toPtr s.cfg (before.cursorPtr.toNat + 2 * unitWords before))
    (BitVec.ofNat 32 (before.remaining.toNat - unitSectors before))

/-- `transferUnit()` (R235). -/
def transfer (s : State) : MemOut :=
  if !s.tag.isData || decide (s.remaining = 0#32) then .ok (.protocolViolation, s)
  else
    let r := portRead8 .altStatus s
    if statusBsy r.1 then .ok (.busyRetry, r.2)
    else if !statusDrq r.1 then .ok (failedOr r.1 .protocolViolation, r.2.endCommand)
    else
      match moveUnit r.2 with
      | .error f => .error f
      | .ok s1 => .ok (.ok, advanceCursor r.2 s1)

/-! ## The polled data phase -/

/-- The end of a polled transfer (R236): the wait, the final poll, the finish check. -/
def transferFinish (s : State) : OpOut := pollFinish (wait400 s)

/-- The loop of `pollTransfer()` (R236): poll, one unit, and again after a wait while sectors remain. `fuel` bounds the
passes: each one lowers `remaining` by at least 1, so `remaining` passes are enough (log 13). -/
def pollLoop : Nat → State → MemOut
  | 0, s => .ok (.protocolViolation, s)
  | n + 1, s =>
    OpOut.andThenMem (pollBusy s.cfg.pollBudget s) fun s1 =>
    MemOut.andThen (transfer s1) fun s2 =>
    if s2.remaining = 0#32 then .ok (transferFinish s2) else pollLoop n (wait400 s2)

/-- `pollTransfer()` (R236). -/
def pollTransfer (s : State) : MemOut := pollLoop s.remaining.toNat s

/-! ## Issue -/

/-- The command image of R225: the register writes, the opcode, the tag and the cursor. -/
def issueImage (op : AtaOpcode) (buf : Addr) (start count : DWord) (s : State) : State :=
  let s1 := portWrites (imageRW s.desc.hasLba48 s.selectedDrive start count) s
  ((portWrite8 .command (opcodeByte op) s1).setTag (tagOf op)).setCursor (toPtr s1.cfg buf.toNat) count

/-- `issueRW(dir, buf, start, count)` (R225). -/
def issueRW (dir : Dir) (buf : Addr) (start count : DWord) (s : State) : MemOut :=
  OpOut.andThenMem (commandGuard s) fun s =>
  if !argsOk s.cfg s.desc buf start count then .ok (.invalidArgument, s)
  else
    OpOut.andThenMem (checkReady s) fun s =>
    OpOut.andThenMem (immediateErrorCheck (issueImage (selectOpcode s.desc dir) buf start count s)) fun s =>
    if s.intEnabled then .ok (.ok, s) else pollTransfer s

/-- One of the eight read and write commands asked for by name (R226 to R233): `issueRW` where the block chooses that
command (R222, 30_encoding.md R111). Where the block chooses another one it never writes this opcode (R112);
DESIGN CHOICE (log 4): the request then fails with `PROTOCOL_VIOLATION` and makes no access. -/
def issueNamed (op : AtaOpcode) (dir : Dir) (buf : Addr) (start count : DWord) (s : State) : MemOut :=
  if selectOpcode s.desc dir = op then issueRW dir buf start count s else .ok (.protocolViolation, s)

/-! ## The instructions -/

/-- ATA command READ_SECTORS, 0x20 (R226). -/
def execReadSectors (buf : Addr) (start count : DWord) (s : State) : Host.Outcome State Fault Refusal :=
  finishMem (issueNamed .readSectors .read buf start count s)

/-- ATA command READ_SECTORS_EXT, 0x24 (R227). -/
def execReadSectorsExt (buf : Addr) (start count : DWord) (s : State) : Host.Outcome State Fault Refusal :=
  finishMem (issueNamed .readSectorsExt .read buf start count s)

/-- ATA command READ_MULTIPLE, 0xC4 (R228). -/
def execReadMultiple (buf : Addr) (start count : DWord) (s : State) : Host.Outcome State Fault Refusal :=
  finishMem (issueNamed .readMultiple .read buf start count s)

/-- ATA command READ_MULTIPLE_EXT, 0x29 (R229). -/
def execReadMultipleExt (buf : Addr) (start count : DWord) (s : State) : Host.Outcome State Fault Refusal :=
  finishMem (issueNamed .readMultipleExt .read buf start count s)

/-- ATA command WRITE_SECTORS, 0x30 (R230). -/
def execWriteSectors (buf : Addr) (start count : DWord) (s : State) : Host.Outcome State Fault Refusal :=
  finishMem (issueNamed .writeSectors .write buf start count s)

/-- ATA command WRITE_SECTORS_EXT, 0x34 (R231). -/
def execWriteSectorsExt (buf : Addr) (start count : DWord) (s : State) : Host.Outcome State Fault Refusal :=
  finishMem (issueNamed .writeSectorsExt .write buf start count s)

/-- ATA command WRITE_MULTIPLE, 0xC5 (R232). -/
def execWriteMultiple (buf : Addr) (start count : DWord) (s : State) : Host.Outcome State Fault Refusal :=
  finishMem (issueNamed .writeMultiple .write buf start count s)

/-- ATA command WRITE_MULTIPLE_EXT, 0x39 (R233). -/
def execWriteMultipleExt (buf : Addr) (start count : DWord) (s : State) : Host.Outcome State Fault Refusal :=
  finishMem (issueNamed .writeMultipleExt .write buf start count s)

/-- `read(buf, startSector, sectorCount)` (R240). -/
def execRead (buf : Addr) (start count : DWord) (s : State) : Host.Outcome State Fault Refusal :=
  finishMem (issueRW .read buf start count s)

/-- `write(buf, startSector, sectorCount)` (R241). -/
def execWrite (buf : Addr) (start count : DWord) (s : State) : Host.Outcome State Fault Refusal :=
  finishMem (issueRW .write buf start count s)

/-- `transferUnit()` (R235). -/
def execTransferUnit (s : State) : Host.Outcome State Fault Refusal := finishMem (transfer s)

end Sys2Proof.Machine
end

