-- ==== Sys2Proof/Machine/Interrupt.lean ====
section
/-! DEFINITION. The interrupt dispatcher (spec/43_interrupt_dispatcher.md). -/

namespace Sys2Proof.Machine

/-- `completionCheck()` (R281): a fresh Alternate Status byte that shows the device idle ends the command. -/
def completionCheck (s : State) : State :=
  let r := portRead8 .altStatus (wait400 s)
  if statusIdle r.1 then r.2.endCommand else r.2

/-- `if r == OK and d.tag != NONE: completionCheck()` (R280). -/
def completeUnit (r : OpOut) : OpOut :=
  if r.1 = .ok ∧ r.2.tag ≠ .none then (r.1, completionCheck r.2) else r

/-- A data tag with sectors remaining (R280): a unit is due. -/
def unitDue (s : State) : Bool := s.tag.isData && decide (s.remaining ≠ 0#32)

/-- The cases of R280 in which no unit of caller data moves: an ERR or DF status (R283), a data tag with nothing
remaining, the administrative tags and the spurious interrupt (R284), and the identify data phase (R193). -/
def dispatchNoUnit (status : Byte) (s : State) : OpOut :=
  if statusFailed status then (.deviceError, s)
  else
    match s.tag with
    | .read | .write | .readMultiple | .writeMultiple => completeUnit (.ok, s)
    | .softReset | .flushCache | .setMultiple => completeUnit (.ok, s)
    | .identify => completeUnit (identifyData s)
    | .none => (.protocolViolation, s)

/-- The dispatcher between its first and its last event (R280): on an error status no unit moves. -/
def dispatch (status : Byte) (s : State) : MemOut :=
  if unitDue s && !statusFailed status then
    match transfer s with
    | .error f => .error f
    | .ok r => .ok (completeUnit r)
  else .ok (dispatchNoUnit status s)

/-- `onInterrupt()` (R280): the entry reads Status, the return sends EOI on every path (R282). -/
def execOnInterrupt (s : State) : Host.Outcome State Fault Refusal :=
  let e := interruptEntry s
  match dispatch e.1 e.2 with
  | .error f => .fault f
  | .ok r => finish (interruptReturn r)

end Sys2Proof.Machine
end

