-- ==== Sys2Proof/Machine/Dispatch.lean ====
section
/-! DEFINITION. The dispatch of one instruction to its meaning: one arm per row of spec/opcode_table.json. -/

namespace Sys2Proof.Machine

def exec (i : Instr) (s : State) : Host.Outcome State Fault Refusal :=
  match i with
  | .identifyDevice => Sys2Proof.Machine.execIdentifyDevice s
  | .readSectors buf start count => Sys2Proof.Machine.execReadSectors buf start count s
  | .readSectorsExt buf start count => Sys2Proof.Machine.execReadSectorsExt buf start count s
  | .readMultiple buf start count => Sys2Proof.Machine.execReadMultiple buf start count s
  | .readMultipleExt buf start count => Sys2Proof.Machine.execReadMultipleExt buf start count s
  | .writeSectors buf start count => Sys2Proof.Machine.execWriteSectors buf start count s
  | .writeSectorsExt buf start count => Sys2Proof.Machine.execWriteSectorsExt buf start count s
  | .writeMultiple buf start count => Sys2Proof.Machine.execWriteMultiple buf start count s
  | .writeMultipleExt buf start count => Sys2Proof.Machine.execWriteMultipleExt buf start count s
  | .flushCache => Sys2Proof.Machine.execFlushCache s
  | .setMultipleModeCommand m => Sys2Proof.Machine.execSetMultipleModeCommand m s
  | .initializeBlock => Sys2Proof.Machine.execInitialize s
  | .read buf start count => Sys2Proof.Machine.execRead buf start count s
  | .write buf start count => Sys2Proof.Machine.execWrite buf start count s
  | .flush => Sys2Proof.Machine.execFlush s
  | .setInterruptMode enable => Sys2Proof.Machine.execSetInterruptMode enable s
  | .getError => Sys2Proof.Machine.execGetError s
  | .identify => Sys2Proof.Machine.execIdentify s
  | .selectDrive dev1 => Sys2Proof.Machine.execSelectDrive dev1 s
  | .softwareReset => Sys2Proof.Machine.execSoftwareReset s
  | .waitBusy target => Sys2Proof.Machine.execWaitBusy target s
  | .waitDataRequest target => Sys2Proof.Machine.execWaitDataRequest target s
  | .waitDeviceReady target => Sys2Proof.Machine.execWaitDeviceReady target s
  | .isBusy => Sys2Proof.Machine.execIsBusy s
  | .isDataRequestPending => Sys2Proof.Machine.execIsDataRequestPending s
  | .hasError => Sys2Proof.Machine.execHasError s
  | .wait400ns => Sys2Proof.Machine.execWait400ns s
  | .transferUnit => Sys2Proof.Machine.execTransferUnit s
  | .setMultipleMode m => Sys2Proof.Machine.execSetMultipleMode m s
  | .onInterrupt => Sys2Proof.Machine.execOnInterrupt s

end Sys2Proof.Machine
end

