-- ==== Sys2Proof/WellFormed.lean ====
section
/-! DEFINITION. Which instructions are requests the block can be given: spec/30_encoding.md R121. -/

namespace Sys2Proof

/-- The caller address an instruction carries, if any. -/
def Instr.bufOperand : Instr → Option Addr
  | .readSectors b _ _ | .readSectorsExt b _ _ | .readMultiple b _ _ | .readMultipleExt b _ _
  | .writeSectors b _ _ | .writeSectorsExt b _ _ | .writeMultiple b _ _ | .writeMultipleExt b _ _
  | .read b _ _ | .write b _ _ => some b
  | .identifyDevice | .flushCache | .setMultipleModeCommand _ | .initializeBlock | .flush | .setInterruptMode _ | .getError
  | .identify | .selectDrive _ | .softwareReset | .waitBusy _ | .waitDataRequest _ | .waitDeviceReady _ | .isBusy
  | .isDataRequestPending | .hasError | .wait400ns | .transferUnit | .setMultipleMode _ | .onInterrupt => none

/-- 30_encoding.md R121: "An operand outside its width is not a request the model can form." The types of `Instr`
hold every width but that of `buf`, which depends on `PTR_WIDTH`. -/
def Instr.wf (c : Config) (i : Instr) : Bool :=
  match i.bufOperand with
  | none => true
  | some b => decide (b.toNat < 2 ^ c.ptrWidth.bits)

end Sys2Proof
end

