-- ==== Sys2Proof/Decode.lean ====
section
/-! DEFINITION. Decoding a request word, and the encoder beside it (spec/30_encoding.md R110, R120, R121;
spec/opcode_table.json). The places of the operands and the kind byte are DESIGN CHOICES (log 2, log 3):

| bits | field |
|---|---|
| 7..0 | `code`: the row's byte of opcode_table.json |
| 15..8 | `kind`: 0 where `code` is a selector of R120, 1 where it is an ATA opcode of R110 |
| 79..16 | `arg`: buf; or m, enable, target or dev1 in its low bits |
| 111..80 | `start` |
| 143..112 | `count` |

A field the instruction has no operand for is 0; any other value of it is refused. -/

namespace Sys2Proof

/-- Why a request word is no request. -/
inductive DecodeError where
  /-- 30_encoding.md R120: "Every other selector value names no operation"; nor does a code that is no opcode of R110
  name a command, or a kind other than 0 and 1 anything. -/
  | unknownSelector (code : Byte)
  /-- A field without an operand is not 0, or an operand is outside its width (R121). -/
  | badOperand (code : Byte)
deriving DecidableEq, Repr

/-- The fields of a request word. -/
structure RequestFields where
  code : Byte
  kind : Byte
  arg : Addr
  start : DWord
  count : DWord
deriving DecidableEq, Repr

/-- Cut a request word into its fields. -/
def RequestWord.split (w : RequestWord) : RequestFields where
  code := w.extractLsb' 0 8
  kind := w.extractLsb' 8 8
  arg := w.extractLsb' 16 64
  start := w.extractLsb' 80 32
  count := w.extractLsb' 112 32

/-- Put the fields of a request word together. -/
def RequestFields.pack (f : RequestFields) : RequestWord :=
  f.count ++ f.start ++ f.arg ++ f.kind ++ f.code

/-- An instruction without operands: every operand field is 0. -/
def decodePlain (f : RequestFields) (i : Instr) : Except DecodeError Instr :=
  if f.arg = 0#64 ∧ f.start = 0#32 ∧ f.count = 0#32 then .ok i else .error (.badOperand f.code)

/-- An instruction with one operand of `n` bits in `arg`. -/
def decodeSmall (n : Nat) (f : RequestFields) (i : BitVec n → Instr) : Except DecodeError Instr :=
  if f.arg.toNat < 2 ^ n ∧ f.start = 0#32 ∧ f.count = 0#32 then .ok (i (f.arg.setWidth n))
  else .error (.badOperand f.code)

/-- An instruction with one bool operand: 0 or 1 (00_scope.md R8). -/
def decodeBool (f : RequestFields) (i : Bool → Instr) : Except DecodeError Instr :=
  decodeSmall 1 f fun b => i (b == 1#1)

/-- A request by selector: the nineteen of 30_encoding.md R120 and no other. -/
def RequestFields.decodeSelector (f : RequestFields) : Except DecodeError Instr :=
  match f.code.toNat with
  | 0x01 => decodePlain f .initializeBlock
  | 0x02 => .ok (.read f.arg f.start f.count)
  | 0x03 => .ok (.write f.arg f.start f.count)
  | 0x04 => decodePlain f .flush
  | 0x05 => decodeBool f .setInterruptMode
  | 0x06 => decodePlain f .getError
  | 0x07 => decodePlain f .identify
  | 0x08 => decodeSmall 1 f .selectDrive
  | 0x09 => decodePlain f .softwareReset
  | 0x0A => decodeBool f .waitBusy
  | 0x0B => decodeBool f .waitDataRequest
  | 0x0C => decodeBool f .waitDeviceReady
  | 0x0D => decodePlain f .isBusy
  | 0x0E => decodePlain f .isDataRequestPending
  | 0x0F => decodePlain f .hasError
  | 0x10 => decodePlain f .wait400ns
  | 0x11 => decodePlain f .transferUnit
  | 0x12 => decodeSmall 8 f .setMultipleMode
  | 0x20 => decodePlain f .onInterrupt
  | _ => .error (.unknownSelector f.code)

/-- A request for one of the eleven ATA commands of 30_encoding.md R110 by its opcode (log 3). -/
def RequestFields.decodeCommand (f : RequestFields) : Except DecodeError Instr :=
  match f.code.toNat with
  | 0xEC => decodePlain f .identifyDevice
  | 0x20 => .ok (.readSectors f.arg f.start f.count)
  | 0x24 => .ok (.readSectorsExt f.arg f.start f.count)
  | 0xC4 => .ok (.readMultiple f.arg f.start f.count)
  | 0x29 => .ok (.readMultipleExt f.arg f.start f.count)
  | 0x30 => .ok (.writeSectors f.arg f.start f.count)
  | 0x34 => .ok (.writeSectorsExt f.arg f.start f.count)
  | 0xC5 => .ok (.writeMultiple f.arg f.start f.count)
  | 0x39 => .ok (.writeMultipleExt f.arg f.start f.count)
  | 0xE7 => decodePlain f .flushCache
  | 0xC6 => decodeSmall 8 f .setMultipleModeCommand
  | _ => .error (.unknownSelector f.code)

/-- The two groups of rows of spec/opcode_table.json, told apart by the kind byte. -/
def RequestFields.decode (f : RequestFields) : Except DecodeError Instr :=
  match f.kind.toNat with
  | 0 => f.decodeSelector
  | 1 => f.decodeCommand
  | _ => .error (.unknownSelector f.code)

/-- Decode a request word. -/
def decode (w : RequestWord) : Except DecodeError Instr := w.split.decode

/-- The request word of a row of spec/opcode_table.json whose `nbits` bits are `w`; the bits above are 0. A row has no
kind byte, since the table gives it 8 bits. A row that is only its code and is no selector stands for a command, so its
kind byte is 1 (log 3). -/
def tableRequest (nbits w : Nat) : RequestWord :=
  let r : RequestWord := BitVec.ofNat 144 (w % 2 ^ nbits)
  match decode r with
  | .error (.unknownSelector _) => if nbits ≤ 8 then r ||| 0x100#144 else r
  | _ => r

/-- The instruction of a row of spec/opcode_table.json, decoded from its request word. -/
def decodeTableWord (nbits w : Nat) : Option Instr :=
  match decode (tableRequest nbits w) with
  | .ok i => some i
  | .error _ => none

/-- The code of an instruction: its byte in spec/opcode_table.json. -/
def Instr.code : Instr → Byte
  | .identifyDevice => 0xEC#8
  | .readSectors _ _ _ => 0x20#8
  | .readSectorsExt _ _ _ => 0x24#8
  | .readMultiple _ _ _ => 0xC4#8
  | .readMultipleExt _ _ _ => 0x29#8
  | .writeSectors _ _ _ => 0x30#8
  | .writeSectorsExt _ _ _ => 0x34#8
  | .writeMultiple _ _ _ => 0xC5#8
  | .writeMultipleExt _ _ _ => 0x39#8
  | .flushCache => 0xE7#8
  | .setMultipleModeCommand _ => 0xC6#8
  | .initializeBlock => 0x01#8
  | .read _ _ _ => 0x02#8
  | .write _ _ _ => 0x03#8
  | .flush => 0x04#8
  | .setInterruptMode _ => 0x05#8
  | .getError => 0x06#8
  | .identify => 0x07#8
  | .selectDrive _ => 0x08#8
  | .softwareReset => 0x09#8
  | .waitBusy _ => 0x0A#8
  | .waitDataRequest _ => 0x0B#8
  | .waitDeviceReady _ => 0x0C#8
  | .isBusy => 0x0D#8
  | .isDataRequestPending => 0x0E#8
  | .hasError => 0x0F#8
  | .wait400ns => 0x10#8
  | .transferUnit => 0x11#8
  | .setMultipleMode _ => 0x12#8
  | .onInterrupt => 0x20#8

/-- The kind byte: 1 for an ATA command (30_encoding.md R110), 0 for an operation (R120) (log 3). -/
def Instr.kind : Instr → Byte
  | .identifyDevice | .readSectors _ _ _ | .readSectorsExt _ _ _ | .readMultiple _ _ _ | .readMultipleExt _ _ _
  | .writeSectors _ _ _ | .writeSectorsExt _ _ _ | .writeMultiple _ _ _ | .writeMultipleExt _ _ _ | .flushCache
  | .setMultipleModeCommand _ => 1#8
  | .initializeBlock | .read _ _ _ | .write _ _ _ | .flush | .setInterruptMode _ | .getError | .identify | .selectDrive _
  | .softwareReset | .waitBusy _ | .waitDataRequest _ | .waitDeviceReady _ | .isBusy | .isDataRequestPending | .hasError
  | .wait400ns | .transferUnit | .setMultipleMode _ | .onInterrupt => 0#8

/-- The `arg` field: the buffer address, or the one small operand. -/
def Instr.arg : Instr → Addr
  | .readSectors b _ _ | .readSectorsExt b _ _ | .readMultiple b _ _ | .readMultipleExt b _ _
  | .writeSectors b _ _ | .writeSectorsExt b _ _ | .writeMultiple b _ _ | .writeMultipleExt b _ _
  | .read b _ _ | .write b _ _ => b
  | .setMultipleModeCommand m | .setMultipleMode m => m.setWidth 64
  | .setInterruptMode b | .waitBusy b | .waitDataRequest b | .waitDeviceReady b => if b then 1#64 else 0#64
  | .selectDrive d => d.setWidth 64
  | .identifyDevice | .flushCache | .initializeBlock | .flush | .getError | .identify | .softwareReset | .isBusy
  | .isDataRequestPending | .hasError | .wait400ns | .transferUnit | .onInterrupt => 0#64

/-- The `start` and `count` fields. -/
def Instr.startCount : Instr → DWord × DWord
  | .readSectors _ s c | .readSectorsExt _ s c | .readMultiple _ s c | .readMultipleExt _ s c
  | .writeSectors _ s c | .writeSectorsExt _ s c | .writeMultiple _ s c | .writeMultipleExt _ s c
  | .read _ s c | .write _ s c => (s, c)
  | .identifyDevice | .flushCache | .setMultipleModeCommand _ | .initializeBlock | .flush | .setInterruptMode _ | .getError
  | .identify | .selectDrive _ | .softwareReset | .waitBusy _ | .waitDataRequest _ | .waitDeviceReady _ | .isBusy
  | .isDataRequestPending | .hasError | .wait400ns | .transferUnit | .setMultipleMode _ | .onInterrupt => (0#32, 0#32)

/-- The fields of an instruction. -/
def Instr.fields (i : Instr) : RequestFields where
  code := i.code
  kind := i.kind
  arg := i.arg
  start := i.startCount.1
  count := i.startCount.2

/-- The request word of an instruction. -/
def encode (i : Instr) : RequestWord := i.fields.pack

end Sys2Proof
end

