-- ==== Sys2Proof/Machine/Fetch.lean ====
section
/-! DEFINITION. Taking a request from the queue (spec/00_scope.md R6; 30_encoding.md R120, R121). -/

namespace Sys2Proof.Machine

/-- The state once the oldest request has been taken. -/
def State.takeRequest (s : State) : State := { s with requests := s.requests.tail }

/-- Why a word that is no request is refused (30_encoding.md R120, R121). -/
def refusalOf : DecodeError → Refusal
  | .unknownSelector c => .unknownSelector c
  | .badOperand c => .operandOutsideWidth c

/-- The instruction a request word asks for; an operand outside its width is no request (30_encoding.md R121). -/
def fetchRequest (c : Config) (w : RequestWord) : Except Refusal Instr :=
  match decode w with
  | .error e => .error (refusalOf e)
  | .ok i => if i.wf c then .ok i else .error (.operandOutsideWidth i.code)

/-- Place the request of the row whose bits are `w` (`tableRequest`: the bits above `nbits` 0) before every other
request. -/
def State.placeRequest (s : State) (nbits w : Nat) : State :=
  { s with requests := tableRequest nbits w :: s.requests }

end Sys2Proof.Machine
end

