-- ==== Sys2Proof/Machine/Step.lean ====
section
/-! DEFINITION. One step: the oldest request of the caller or of the interrupt source, decoded and executed
(spec/00_scope.md R5, R6). -/

namespace Sys2Proof.Machine

/-- One step: one operation, atomically (00_scope.md R5). With no request the block waits (70_reset_and_hazards.md
R381; log 1). A word that is no request is refused and nothing runs (30_encoding.md R120, R121). -/
def step (s : State) : Host.Outcome State Fault Refusal :=
  match s.requests with
  | [] => .next s
  | w :: _ =>
    match fetchRequest s.cfg w with
    | .ok i => exec i s.takeRequest
    | .error r => .refused r

/-- `s` with the request of the table row whose bits are `w` (bits above `nbits` 0) as its oldest one: the next step runs
it. -/
def State.withFetchWord (s : State) (nbits w : Nat) : State := s.placeRequest nbits w

end Sys2Proof.Machine
end

