-- ==== Sys2Proof/Safety.lean ====
section
/-! DEFINITION. What a safe run keeps, and the words the statements use: the invariants of spec/10_state.md R33 and R37,
the canonical form of caller memory, which instructions move caller data, and the events a step adds to the trace. -/

namespace Sys2Proof.Machine

/-! ## Invariants -/

/-- A UDMA mode field (10_state.md R32): a mode 0..6, or 0xFF for none. -/
def udmaFieldOk (v : Byte) : Prop := v.toNat ≤ 6 ∨ v = 0xFF#8

/-- The descriptor invariants (10_state.md R33 (a) to (d); (e) holds by the type of `selectedDrive`). -/
def State.DescriptorOk (s : State) : Prop :=
  (s.identified = true → s.desc.sectorSize ≠ 0#32) ∧
  (s.desc.hasMultipleCmd = false ↔ s.desc.maxMultipleSectorSize = 0#8) ∧
  (s.desc.maxAtaVersion = 0#8 ∨ (2 ≤ s.desc.maxAtaVersion.toNat ∧ s.desc.maxAtaVersion.toNat ≤ 8)) ∧
  (s.identified = true → udmaFieldOk s.desc.udmaSupported ∧ udmaFieldOk s.desc.udmaSelected)

/-- The tag and cursor invariants (10_state.md R37 (a) to (c); (a) is the case `NONE` of (c)). -/
def State.TagOk (s : State) : Prop :=
  (s.tag.isData = false → s.cursorPtr = 0#64 ∧ s.remaining = 0#32) ∧
  (s.tag.isMultiple = true → s.desc.currentMultipleSectorSize ≠ 0#8)

/-- `cursorPtr` has `PTR_WIDTH` bits (10_state.md R34; log 11). -/
def State.CursorOk (s : State) : Prop := s.cursorPtr.toNat < 2 ^ s.cfg.ptrWidth.bits

/-! ## Words of the statements -/

/-- The record of what an operation did outside the block: a step that changes nothing else only read and wrote ports
and waited. -/
def OnlyIo (s t : State) : Prop :=
  t = { s with script := t.script, draws := t.draws, trace := t.trace, result := t.result }

/-- The events of `t` that are not yet events of `s`, oldest first, are `evs`. -/
def AddsEvents (s t : State) (evs : List Event) : Prop := t.trace = evs.reverse ++ s.trace

/-- Caller memory admits an access to each of the `n` bytes from `a` (20_memory.md R79). -/
def State.admitsRange (s : State) (a n : Nat) : Prop := ∀ k, k < n → s.admits (a + k) = true

/-- The word at `a`, little-endian (20_memory.md R77). -/
def Memory.word (m : Memory) (a : Nat) : Word := Memory.read m (a + 1) ++ Memory.read m a

/-- The transfer an instruction asks for, if it asks for one that the block issues: `read` and `write`, and the eight
ATA commands where the block's own selection (42_command_transfer.md R222) is that command. -/
def transferRequest (d : Descriptor) : Instr → Option (Dir × Addr × DWord × DWord)
  | .read b s c => some (.read, b, s, c)
  | .write b s c => some (.write, b, s, c)
  | .readSectors b s c => if selectOpcode d .read = .readSectors then some (.read, b, s, c) else none
  | .readSectorsExt b s c => if selectOpcode d .read = .readSectorsExt then some (.read, b, s, c) else none
  | .readMultiple b s c => if selectOpcode d .read = .readMultiple then some (.read, b, s, c) else none
  | .readMultipleExt b s c => if selectOpcode d .read = .readMultipleExt then some (.read, b, s, c) else none
  | .writeSectors b s c => if selectOpcode d .write = .writeSectors then some (.write, b, s, c) else none
  | .writeSectorsExt b s c => if selectOpcode d .write = .writeSectorsExt then some (.write, b, s, c) else none
  | .writeMultiple b s c => if selectOpcode d .write = .writeMultiple then some (.write, b, s, c) else none
  | .writeMultipleExt b s c => if selectOpcode d .write = .writeMultipleExt then some (.write, b, s, c) else none
  | .identifyDevice | .flushCache | .setMultipleModeCommand _ | .initializeBlock | .flush | .setInterruptMode _
  | .getError | .identify | .selectDrive _ | .softwareReset | .waitBusy _ | .waitDataRequest _ | .waitDeviceReady _
  | .isBusy | .isDataRequestPending | .hasError | .wait400ns | .transferUnit | .setMultipleMode _ | .onInterrupt => none

/-- The eight ATA commands that move caller data, with the direction of each (30_encoding.md R110). -/
def namedTransfer : Instr → Option (AtaOpcode × Dir)
  | .readSectors _ _ _ => some (.readSectors, .read)
  | .readSectorsExt _ _ _ => some (.readSectorsExt, .read)
  | .readMultiple _ _ _ => some (.readMultiple, .read)
  | .readMultipleExt _ _ _ => some (.readMultipleExt, .read)
  | .writeSectors _ _ _ => some (.writeSectors, .write)
  | .writeSectorsExt _ _ _ => some (.writeSectorsExt, .write)
  | .writeMultiple _ _ _ => some (.writeMultiple, .write)
  | .writeMultipleExt _ _ _ => some (.writeMultipleExt, .write)
  | .read _ _ _ | .write _ _ _ | .identifyDevice | .flushCache | .setMultipleModeCommand _ | .initializeBlock | .flush
  | .setInterruptMode _ | .getError | .identify | .selectDrive _ | .softwareReset | .waitBusy _ | .waitDataRequest _
  | .waitDeviceReady _ | .isBusy | .isDataRequestPending | .hasError | .wait400ns | .transferUnit | .setMultipleMode _
  | .onInterrupt => none

/-- The instructions that may touch caller memory (20_memory.md R71): those whose operation can run the unit transfer
of 42_command_transfer.md R235. -/
def touchesMemory : Instr → Bool
  | .read _ _ _ | .write _ _ _ | .readSectors _ _ _ | .readSectorsExt _ _ _ | .readMultiple _ _ _
  | .readMultipleExt _ _ _ | .writeSectors _ _ _ | .writeSectorsExt _ _ _ | .writeMultiple _ _ _
  | .writeMultipleExt _ _ _ | .transferUnit | .onInterrupt => true
  | .identifyDevice | .flushCache | .setMultipleModeCommand _ | .initializeBlock | .flush | .setInterruptMode _
  | .getError | .identify | .selectDrive _ | .softwareReset | .waitBusy _ | .waitDataRequest _ | .waitDeviceReady _
  | .isBusy | .isDataRequestPending | .hasError | .wait400ns | .setMultipleMode _ => false

/-- The operations that start a device command or change what a command in flight relies on, and so are refused while
one is in flight (70_reset_and_hazards.md R390). -/
def startsCommand : Instr → Bool
  | .read _ _ _ | .write _ _ _ | .readSectors _ _ _ | .readSectorsExt _ _ _ | .readMultiple _ _ _
  | .readMultipleExt _ _ _ | .writeSectors _ _ _ | .writeSectorsExt _ _ _ | .writeMultiple _ _ _
  | .writeMultipleExt _ _ _ | .flush | .flushCache | .setMultipleMode _ | .setMultipleModeCommand _ | .identify
  | .identifyDevice | .selectDrive _ | .setInterruptMode _ => true
  | .initializeBlock | .getError | .softwareReset | .waitBusy _ | .waitDataRequest _ | .waitDeviceReady _ | .isBusy
  | .isDataRequestPending | .hasError | .wait400ns | .transferUnit | .onInterrupt => false

/-- The operations that make the check `commandGuard` (42_command_transfer.md R220): every read, write, flush and
set-multiple operation. -/
def guardedCommand : Instr → Bool
  | .read _ _ _ | .write _ _ _ | .readSectors _ _ _ | .readSectorsExt _ _ _ | .readMultiple _ _ _
  | .readMultipleExt _ _ _ | .writeSectors _ _ _ | .writeSectorsExt _ _ _ | .writeMultiple _ _ _
  | .writeMultipleExt _ _ _ | .flush | .flushCache | .setMultipleMode _ | .setMultipleModeCommand _ => true
  | .identify | .identifyDevice | .selectDrive _ | .setInterruptMode _ | .initializeBlock | .getError | .softwareReset
  | .waitBusy _ | .waitDataRequest _ | .waitDeviceReady _ | .isBusy | .isDataRequestPending | .hasError | .wait400ns
  | .transferUnit | .onInterrupt => false

/-- `r` is the distance from `base` of the highest set bit among the bits `base + top` to `base` of `v`, or 0xFF where
none is set (41_identify.md R191). -/
def highestBit (v : Word) (base top : Nat) (r : Byte) : Prop :=
  (∃ i, i ≤ top ∧ v.getLsbD (base + i) = true ∧ (∀ j, i < j → j ≤ top → v.getLsbD (base + j) = false) ∧
    r = BitVec.ofNat 8 i) ∨
  ((∀ i, i ≤ top → v.getLsbD (base + i) = false) ∧ r = 0xFF#8)

/-! ## The device's answers and the events of a run -/

/-- The answer to the `k`-th port read from here (20_memory.md R74): the script, then the free value. -/
def State.nth (s : State) (k : Nat) : Word :=
  match s.script[k]? with
  | some w => w
  | none => Config.deviceDraw (s.draws + k)

/-- The `k`-th answer as a byte read sees it. -/
def State.nextByte (s : State) (k : Nat) : Byte := (s.nth k).setWidth 8

/-- `n` answers from the `k`-th on. -/
def State.nextWords (s : State) (k n : Nat) : List Word := (List.range n).map fun j => s.nth (k + j)

/-- `s` after `n` port reads and the events `evs`, oldest first; nothing else differs. -/
def State.ranIo (s : State) (n : Nat) (evs : List Event) : State :=
  { s with script := s.script.drop n, draws := s.draws + n, trace := evs.reverse ++ s.trace }

/-- `n` Alternate Status reads, the `k`-th to the `k+n-1`-th port reads from here, oldest first. -/
def State.altReads (s : State) (k n : Nat) : List Event :=
  (List.range n).map fun j => .portRead8 (portAddr s.cfg .altStatus) (s.nextByte (k + j))

/-- The events of `n` attempts of a bounded wait (40_register_protocol.md R140): the reads, separated by `IoDelay`s. -/
def State.attempts (s : State) (k n : Nat) : List Event := (s.altReads k n).intersperse .ioDelay

/-- `n` reads of the Data register, from the `k`-th port read from here, oldest first. -/
def State.dataReads (s : State) (k n : Nat) : List Event :=
  (s.nextWords k n).map fun w => .portRead16 (portAddr s.cfg .data) w

/-- The register writes of an image, as events (30_encoding.md R100). -/
def imageEvents (c : Config) (ws : List (Port × Byte)) : List Event :=
  ws.map fun w => .portWrite8 (portAddr c w.1) w.2

/-- The write of a command byte to `P_COMMAND`. -/
def commandEvent (c : Config) (op : AtaOpcode) : Event := .portWrite8 (portAddr c .command) (opcodeByte op)

/-- A status byte on which an immediate error ends a command (42_command_transfer.md R223): BSY clear and ERR set. -/
def immediateError (b : Byte) : Bool := !statusBsy b && statusErr b

/-- One read of the Alternate Status register, the `k`-th port read from here. -/
def State.altRead (s : State) (k : Nat) : Event := .portRead8 (portAddr s.cfg .altStatus) (s.nextByte k)

/-! ## Answers on which an operation takes a given path

Each predicate says what the device must answer from the `k`-th port read on; beside it stand the events the path makes
and the number of port reads it takes. `w` below is `WAIT400_READS`. -/

/-- A wait for `bit` to be `target` (40_register_protocol.md R140) that makes its first read as the `k`-th ends at its
attempt `n`, counted from 0. -/
def State.waitMeets (s : State) (bit : Nat) (target : Bool) (k n : Nat) : Prop :=
  (∀ j, j < n → (s.nextByte (k + j)).getLsbD bit ≠ target) ∧ (s.nextByte (k + n)).getLsbD bit = target

/-- The first `n` attempts of such a wait all fail. -/
def State.waitMisses (s : State) (bit : Nat) (target : Bool) (k n : Nat) : Prop :=
  ∀ j, j < n → (s.nextByte (k + j)).getLsbD bit ≠ target

/-- The device becomes ready for a command (42_command_transfer.md R221): the three waits end at their attempts `a`, `b`
and `c`, within the budget. They take `a + b + c + 3` reads. -/
def State.readyMeets (s : State) (a b c : Nat) : Prop :=
  (a < s.cfg.waitBudget ∧ b < s.cfg.waitBudget ∧ c < s.cfg.waitBudget) ∧ s.waitMeets 7 false 0 a ∧
  s.waitMeets 3 false (a + 1) b ∧ s.waitMeets 6 true (a + b + 2) c

/-- The events of those three waits. -/
def State.readyEvents (s : State) (a b c : Nat) : List Event :=
  s.attempts 0 (a + 1) ++ s.attempts (a + 1) (b + 1) ++ s.attempts (a + b + 2) (c + 1)

/-- The events from the write of a command byte to the immediate error check (R223): `w + 1` reads from the `k`-th on,
the last of them the check. -/
def State.issueEvents (s : State) (op : AtaOpcode) (k : Nat) : List Event :=
  commandEvent s.cfg op :: s.altReads k (s.cfg.wait400Reads + 1)

/-- The immediate error check whose delay begins at the `k`-th read lets the command go on (R223). -/
def State.issueMeets (s : State) (k : Nat) : Prop := immediateError (s.nextByte (k + s.cfg.wait400Reads)) = false

/-- The events of a read or write command up to its immediate error check (R225): the ready checks, which end at `a`, `b`
and `c`, the image and the opcode; `a + b + c + w + 4` reads. -/
def State.commandEvents (s : State) (dir : Dir) (start count : DWord) (a b c : Nat) : List Event :=
  s.readyEvents a b c ++ imageEvents s.cfg (imageRW s.desc.hasLba48 s.selectedDrive start count) ++
  s.issueEvents (selectOpcode s.desc dir) (a + b + c + 3)

/-- The block once such a command is in flight (R225): its tag and its cursor. -/
def State.inCommand (s : State) (dir : Dir) (buf : Addr) (count : DWord) : State :=
  (s.setTag (tagOf (selectOpcode s.desc dir))).setCursor buf count

/-- The sectors of the first unit of a command for `count` sectors (R234). -/
def firstUnit (d : Descriptor) (count : DWord) : Nat :=
  if multipleOn d then min count.toNat d.currentMultipleSectorSize.toNat else 1

/-- The poll and the finish check that begin at the `k`-th read end a command (R224): the poll at its attempt `p`, the
check on an idle status. They take `p + 2` reads. -/
def State.finishMeets (s : State) (k p : Nat) : Prop :=
  p < s.cfg.pollBudget ∧ s.waitMeets 7 false k p ∧ statusIdle (s.nextByte (k + p + 1)) = true

/-- The events of that poll and finish check. -/
def State.finishEvents (s : State) (k p : Nat) : List Event := s.attempts k (p + 1) ++ [s.altRead (k + p + 1)]

/-- The machine once `k` more port reads were made, nothing else changed: what the device answers from there on. -/
def State.after (s : State) (k : Nat) : State := s.ranIo k []

/-- SET MULTIPLE MODE runs to an idle status (R252) from the `k`-th port read on: the waits end at `a`, `b`, `c`, the poll
at `p`; `a + b + c + w + p + 6` reads. -/
def State.multipleMeets (s : State) (k a b c p : Nat) : Prop :=
  (s.after k).readyMeets a b c ∧ s.issueMeets (k + a + b + c + 3) ∧
  s.finishMeets (k + a + b + c + s.cfg.wait400Reads + 4) p

/-- The events of such a SET MULTIPLE MODE. -/
def State.multipleEvents (s : State) (m : Byte) (k a b c p : Nat) : List Event :=
  (s.after k).readyEvents a b c ++ .portWrite8 (portAddr s.cfg .count) m ::
  s.issueEvents .setMultipleMode (k + a + b + c + 3) ++ s.finishEvents (k + a + b + c + s.cfg.wait400Reads + 4) p

/-- A drive select succeeds (40_register_protocol.md R150), its poll at the attempt `p`; `w + p + 3` reads. -/
def State.selectMeets (s : State) (k p : Nat) : Prop :=
  statusIdle (s.nextByte k) = true ∧ p < s.cfg.selectBudget ∧ s.waitMeets 7 false (k + s.cfg.wait400Reads + 1) p ∧
  statusFailed (s.nextByte (k + s.cfg.wait400Reads + p + 2)) = false

/-- The events of a drive select up to its poll: `w + 1` reads. -/
def State.selectHead (s : State) (dev1 : BitVec 1) (k : Nat) : List Event :=
  s.altRead k :: .portWrite8 (portAddr s.cfg .drvHead) (0xE0#8 ||| (dev1.setWidth 8 <<< 4)) ::
  s.altReads (k + 1) s.cfg.wait400Reads

/-- The events of a drive select whose poll ends at the attempt `p`. -/
def State.selectEvents (s : State) (dev1 : BitVec 1) (k p : Nat) : List Event :=
  s.selectHead dev1 k ++ s.attempts (k + s.cfg.wait400Reads + 1) (p + 1) ++
  [s.altRead (k + s.cfg.wait400Reads + p + 2)]

/-- A software reset succeeds (40_register_protocol.md R151), its poll at the attempt `p`; `w + p + 3` reads. -/
def State.resetMeets (s : State) (k p : Nat) : Prop :=
  statusBsy (s.nextByte k) = false ∧ p < s.cfg.resetPollBudget ∧
  s.waitMeets 7 false (k + s.cfg.wait400Reads + 1) p ∧
  statusFailed (s.nextByte (k + s.cfg.wait400Reads + p + 2)) = false

/-- The events of a software reset up to its poll: `w + 1` reads. -/
def State.resetHead (s : State) (k : Nat) : List Event :=
  s.altRead k :: .portWrite8 (portAddr s.cfg .devCtl) 0x06#8 :: List.replicate s.cfg.resetHoldDelays .ioDelay ++
  .portWrite8 (portAddr s.cfg .devCtl) 0x02#8 :: s.altReads (k + 1) s.cfg.wait400Reads

/-- The events of a software reset whose poll ends at the attempt `p`, before the interrupt mode is restored. -/
def State.resetEvents (s : State) (k p : Nat) : List Event :=
  s.resetHead k ++ s.attempts (k + s.cfg.wait400Reads + 1) (p + 1) ++ [s.altRead (k + s.cfg.wait400Reads + p + 2)]

/-- The device is quiescent at the entry of IDENTIFY (41_identify.md R181) and shows no immediate error. -/
def State.identifyIssueMeets (s : State) (k : Nat) : Prop :=
  (statusIdle (s.nextByte k) = true ∧ statusDrdy (s.nextByte k) = true) ∧ s.issueMeets (k + 1)

/-- The events of IDENTIFY up to the immediate error check: `w + 2` reads. -/
def State.identifyIssueEvents (s : State) (k : Nat) : List Event := s.altRead k :: s.issueEvents .identify (k + 1)

/-- A polled IDENTIFY reaches its data check (R181): its first poll ends at the attempt `p`; `w + p + 4` reads, the last of
them the check. -/
def State.identifyPollMeets (s : State) (k p : Nat) : Prop :=
  s.identifyIssueMeets k ∧ p < s.cfg.pollBudget ∧ s.waitMeets 7 false (k + s.cfg.wait400Reads + 2) p

/-- The events of a polled IDENTIFY up to its data check. -/
def State.identifyPollEvents (s : State) (k p : Nat) : List Event :=
  s.identifyIssueEvents k ++ s.attempts (k + s.cfg.wait400Reads + 2) (p + 1) ++ [s.altRead (k + s.cfg.wait400Reads + p + 3)]

/-- It moves its 256 words: the data check (41_identify.md R182) shows BSY clear and DRQ set. -/
def State.identifyDataMeets (s : State) (k p : Nat) : Prop :=
  s.identifyPollMeets k p ∧ statusBsy (s.nextByte (k + s.cfg.wait400Reads + p + 3)) = false ∧
  statusDrq (s.nextByte (k + s.cfg.wait400Reads + p + 3)) = true

/-- The words that IDENTIFY reads. -/
def State.identifyWords (s : State) (k p : Nat) : IdentBuf :=
  identBufOf (s.nextWords (k + s.cfg.wait400Reads + p + 4) 256)

/-- The events of a polled IDENTIFY up to its second poll: `2 * w + p + 260` reads. -/
def State.identifyDataEvents (s : State) (k p : Nat) : List Event :=
  s.identifyPollEvents k p ++ s.dataReads (k + s.cfg.wait400Reads + p + 4) 256 ++
  s.altReads (k + s.cfg.wait400Reads + p + 260) s.cfg.wait400Reads

/-- The block after a data phase that read the words `w` (R182): the buffer, and the commit or, where the parse fails,
`identified` cleared. -/
def State.parsedInto (s : State) (w : IdentBuf) : State :=
  match parseIdentify w with
  | some f => (s.setIdentBuf w).commit f
  | none => (s.setIdentBuf w).setIdentified false

/-- A polled IDENTIFY moves its words and ends on an idle status (R181): the second poll ends at the attempt `q`;
`2 * w + p + q + 262` reads. -/
def State.identifyMeets (s : State) (k p q : Nat) : Prop :=
  s.identifyDataMeets k p ∧ s.finishMeets (k + 2 * s.cfg.wait400Reads + p + 260) q

/-- The events of such an IDENTIFY. -/
def State.identifyEvents (s : State) (k p q : Nat) : List Event :=
  s.identifyDataEvents k p ++ s.finishEvents (k + 2 * s.cfg.wait400Reads + p + 260) q

/-- `drain` finds `n` stale words (44_bringup_api.md R313), from the `k`-th port read on. -/
def State.drainMeets (s : State) (k n : Nat) : Prop :=
  n ≤ s.cfg.drainBudget ∧ (∀ j, j < n → statusDrq (s.nextByte (k + 1 + 2 * j)) = true) ∧
  (n < s.cfg.drainBudget → statusDrq (s.nextByte (k + 1 + 2 * n)) = false)

/-- How many port reads `drain` makes: below the budget, one more Alternate Status read ends it. -/
def State.drainCount (s : State) (n : Nat) : Nat := 1 + 2 * n + (if n < s.cfg.drainBudget then 1 else 0)

/-- The events of `drain`. -/
def State.drainEvents (s : State) (k n : Nat) : List Event :=
  .portRead8 (portAddr s.cfg .status) (s.nextByte k) ::
  (List.range n).flatMap (fun j =>
    [s.altRead (k + 1 + 2 * j), .portRead16 (portAddr s.cfg .data) (s.nth (k + 2 + 2 * j))]) ++
  (if n < s.cfg.drainBudget then [s.altRead (k + 1 + 2 * n)] else [])

/-- The events that move `n` words from the device, the `k`-th port read and those after it, to memory at `a`
(42_command_transfer.md R235). -/
def State.unitInEvents (s : State) (k a n : Nat) : List Event :=
  (List.range n).flatMap fun j =>
    [.portRead16 (portAddr s.cfg .data) (s.nth (k + j)), .memWrite (a + 2 * j) (s.nth (k + j))]

/-- The events that move `n` words of memory at `a` to the device (R235). -/
def State.unitOutEvents (s : State) (a n : Nat) : List Event :=
  (List.range n).flatMap fun j =>
    [.memRead (a + 2 * j) (Memory.read s.mem (a + 2 * j + 1) ++ Memory.read s.mem (a + 2 * j)),
     .portWrite16 (portAddr s.cfg .data) (Memory.read s.mem (a + 2 * j + 1) ++ Memory.read s.mem (a + 2 * j))]

/-- The transfer cursor past the unit that the tag and the cursor ask for (R235, R237). -/
def State.pastUnit (s t : State) : State :=
  t.setCursor (BitVec.ofNat 64 (s.cursorPtr.toNat + 2 * unitWords s))
    (BitVec.ofNat 32 (s.remaining.toNat - unitSectors s))

/-- A unit is due (R235) and its bytes are admitted memory below the top of the address space. -/
def State.unitReady (s : State) : Prop :=
  (s.tag.isData = true ∧ s.remaining ≠ 0#32) ∧ s.admitsRange s.cursorPtr.toNat (2 * unitWords s) ∧
  s.cursorPtr.toNat + 2 * unitWords s < 2 ^ s.cfg.ptrWidth.bits

/-- `m'` holds the words `ws` from the address `a` on, and is `m` everywhere else. -/
def Memory.Stored (m m' : Memory) (a : Nat) (ws : List Word) : Prop :=
  Memory.wf m' = true ∧
  (∀ j v, ws[j]? = some v → Memory.read m' (a + 2 * j) = v.extractLsb' 0 8 ∧
    Memory.read m' (a + 2 * j + 1) = v.extractLsb' 8 8) ∧
  ∀ x, x < a ∨ a + 2 * ws.length ≤ x → Memory.read m' x = Memory.read m x

/-- The width of the port access of an event is that of its register (20_memory.md R72): 16 bits for Data, 8 bits for
the eight others. -/
def widthOk (c : Config) : Event → Prop
  | .portRead16 p _ | .portWrite16 p _ => p = portAddr c .data
  | .portRead8 p _ | .portWrite8 p _ =>
    p ≠ portAddr c .data ∧
    (p = portAddr c .altStatus ∨ p = portAddr c .error ∨ p = portAddr c .count ∨ p = portAddr c .lbaLo ∨
     p = portAddr c .lbaMid ∨ p = portAddr c .lbaHi ∨ p = portAddr c .drvHead ∨ p = portAddr c .status)
  | .ioDelay | .memRead _ _ | .memWrite _ _ | .maskLine _ | .unmaskLine _ | .sendEOI _ => True

/-- An access of caller memory. -/
def isMemoryEvent : Event → Bool
  | .memRead _ _ | .memWrite _ _ => true
  | .portRead8 _ _ | .portRead16 _ _ | .portWrite8 _ _ | .portWrite16 _ _ | .ioDelay | .maskLine _ | .unmaskLine _
  | .sendEOI _ => false

/-- The words a list of events reads from the Data register, in its order. -/
def dataWordsIn : List Event → List Word
  | [] => []
  | .portRead16 _ v :: es => v :: dataWordsIn es
  | _ :: es => dataWordsIn es

/-- The words a list of events writes to the Data register, in its order. -/
def dataWordsOut : List Event → List Word
  | [] => []
  | .portWrite16 _ v :: es => v :: dataWordsOut es
  | _ :: es => dataWordsOut es

/-- The words of caller memory from `a`, `n` of them. -/
def Memory.words (m : Memory) (a n : Nat) : List Word := (List.range n).map fun j => Memory.word m (a + 2 * j)

end Sys2Proof.Machine
end

