-- ==== Sys2Proof/Certificates/Slice0/Obligations.lean ====
section
/-! DEFINITION. The statements for the provers. The device's answers are `State.nth` and `State.nextByte`; a run of port
accesses is `State.ranIo`; the predicates `…Meets` of Sys2Proof/Safety.lean say what the device must answer for an
operation to take a path, and the lists `…Events` are the events of that path, oldest first. Wherever a statement gives
the next state as an equation, everything the equation does not name is unchanged: that is the instruction's frame. -/

section

open Sys2Proof Sys2Proof.Machine

/-! ## Encoding and the step -/

/-- Decoding an encoded instruction gives it back, with every operand at every value, and every word that decodes is the
encoding of what it decodes to. The layout is the model's (log 2, log 3). -/
def Obligations.DecodeEncodeAgree : Prop :=
  (∀ i : Instr, decode (encode i) = .ok i) ∧
  ∀ (w : RequestWord) (i : Instr), decode w = .ok i → encode i = w

/-- Words written out field by field: count, start, arg, kind, code (log 2, log 3). The code 0xC5 is an ATA opcode
(30_encoding.md R110) and no selector (R120). -/
def Obligations.WrittenOutWordsDecode : Prop :=
  decode (0x00000001#32 ++ 0x00012345#32 ++ 0x0000000000100000#64 ++ 0x00#8 ++ 0x02#8) =
    .ok (.read 0x100000#64 0x12345#32 1#32) ∧
  decode (0x00000003#32 ++ 0x00000007#32 ++ 0x0000000000002000#64 ++ 0x01#8 ++ 0xC5#8) =
    .ok (.writeMultiple 0x2000#64 7#32 3#32) ∧
  decode (0x00000003#32 ++ 0x00000007#32 ++ 0x0000000000002000#64 ++ 0x00#8 ++ 0xC5#8) =
    .error (.unknownSelector 0xC5#8) ∧
  decode (0x00000001#32 ++ 0x00000005#32 ++ 0x0000000000001000#64 ++ 0x01#8 ++ 0x20#8) =
    .ok (.readSectors 0x1000#64 5#32 1#32) ∧
  decode (0x00000000#32 ++ 0x00000000#32 ++ 0x0000000000000008#64 ++ 0x00#8 ++ 0x12#8) = .ok (.setMultipleMode 8#8) ∧
  decode (0x00000000#32 ++ 0x00000000#32 ++ 0x0000000000000001#64 ++ 0x00#8 ++ 0x0A#8) = .ok (.waitBusy true) ∧
  decode (0x00000000#32 ++ 0x00000000#32 ++ 0x0000000000000000#64 ++ 0x00#8 ++ 0x20#8) = .ok .onInterrupt ∧
  decode (0x00000000#32 ++ 0x00000000#32 ++ 0x0000000000000000#64 ++ 0x00#8 ++ 0x21#8) = .error (.unknownSelector 0x21#8)

/-- A step takes the oldest request and executes what it decodes to, or refuses it by name; with no request the block
waits (the queue is the model's, log 1). 30_encoding.md R120: a request by selector (kind 0, log 3) whose code is none of
the nineteen is refused. -/
def Obligations.StepRunsOldestRequest : Prop :=
  (∀ (s : State) (w : RequestWord) (rest : List RequestWord), s.requests = w :: rest →
    (∀ i, decode w = .ok i → i.wf s.cfg = true → step s = exec i { s with requests := rest }) ∧
    (∀ i, decode w = .ok i → i.wf s.cfg = false → step s = .refused (.operandOutsideWidth i.code)) ∧
    (∀ c, decode w = .error (.unknownSelector c) → step s = .refused (.unknownSelector c)) ∧
    (∀ c, decode w = .error (.badOperand c) → step s = .refused (.operandOutsideWidth c)) ∧
    (w.extractLsb' 8 8 = 0#8 →
      w.extractLsb' 0 8 ∉ [0x01#8, 0x02#8, 0x03#8, 0x04#8, 0x05#8, 0x06#8, 0x07#8, 0x08#8, 0x09#8, 0x0A#8, 0x0B#8, 0x0C#8,
        0x0D#8, 0x0E#8, 0x0F#8, 0x10#8, 0x11#8, 0x12#8, 0x20#8] →
      step s = .refused (.unknownSelector (w.extractLsb' 0 8)))) ∧
  ∀ s : State, s.requests = [] → step s = .next s

/-! ## Reset and invariants -/

/-- 10_state.md R54: every field of R32 and R34 is zero after reset, and the tag is `NONE`. -/
def Obligations.ResetStateAsStated : Prop :=
  State.reset.desc = ⟨0#32, 0#32, 0#32, false, false, false, false, 0#8, 0#8, 0#8, 0#8, 0#8⟩ ∧
  State.reset.identified = false ∧ State.reset.intEnabled = false ∧ State.reset.selectedDrive = 0#1 ∧
  State.reset.tag = .none ∧ State.reset.cursorPtr = 0#64 ∧ State.reset.remaining = 0#32

/-- The invariants below hold after reset, and the parameters have legal values there (log 6, log 7). -/
def Obligations.ResetMeetsInvariants : Prop :=
  State.reset.DescriptorOk ∧ State.reset.TagOk ∧ State.reset.CursorOk ∧ Memory.wf State.reset.mem = true ∧
  State.reset.cfg.wf = true

/-- 10_state.md R33: every step keeps the descriptor invariants. -/
def Obligations.StepKeepsDescriptorInvariants : Prop :=
  ∀ s t : State, s.DescriptorOk → step s = .next t → t.DescriptorOk

/-- 10_state.md R37: every step keeps the tag and cursor invariants. -/
def Obligations.StepKeepsTagInvariants : Prop :=
  ∀ s t : State, s.TagOk → step s = .next t → t.TagOk

/-- Every step keeps caller memory in its canonical form (log 7) and the cursor within `PTR_WIDTH` bits (log 11). -/
def Obligations.StepKeepsMemoryAndCursorForm : Prop :=
  ∀ s t : State, Memory.wf s.mem = true → s.CursorOk → step s = .next t → Memory.wf t.mem = true ∧ t.CursorOk

/-- 10_state.md R53: no step changes the parameters; a step that ran a request leaves a result code (60_exceptions.md
R340). Two clauses are the model's choices: the list of requests loses its oldest entry (the queue of requests, log 1),
and the ranges that admit no access stay as they were (log 8). -/
def Obligations.StepKeepsParameters : Prop :=
  ∀ s t : State, step s = .next t →
    t.cfg = s.cfg ∧ t.holes = s.holes ∧ t.requests = s.requests.tail ∧ (s.requests ≠ [] → t.result ≠ none)

/-! ## What every step does to the ports -/

/-- 20_memory.md R72: the Data register is accessed with 16 bits, every other register with 8 bits. -/
def Obligations.StepUsesDeclaredWidths : Prop :=
  ∀ s t : State, s.cfg.wf = true → step s = .next t → ∃ evs, AddsEvents s t evs ∧ ∀ e ∈ evs, widthOk s.cfg e

/-- 30_encoding.md R110, R112: the only bytes written to `P_COMMAND` are the eleven opcodes. -/
def Obligations.CommandPortTakesOnlyElevenOpcodes : Prop :=
  ∀ s t : State, s.cfg.wf = true → step s = .next t →
    ∃ evs, AddsEvents s t evs ∧ ∀ v, .portWrite8 (portAddr s.cfg .command) v ∈ evs →
      v ∈ [0xEC#8, 0x20#8, 0x24#8, 0xC4#8, 0x29#8, 0x30#8, 0x34#8, 0xC5#8, 0x39#8, 0xE7#8, 0xC6#8]

/-- 40_register_protocol.md R148: each `P_COMMAND` write is followed by the 400 ns delay. -/
def Obligations.CommandFollowedBySettleDelay : Prop :=
  ∀ s t : State, s.cfg.wf = true → step s = .next t →
    ∃ evs, AddsEvents s t evs ∧ ∀ pre v post, evs = pre ++ .portWrite8 (portAddr s.cfg .command) v :: post →
      ∃ vs : List Byte, vs.length = s.cfg.wait400Reads ∧
        vs.map (Event.portRead8 (portAddr s.cfg .altStatus)) <+: post

/-- 10_state.md R44: the Features register is never written. R49: Device Control takes the values 0x06, 0x02 and 0x00. -/
def Obligations.DeviceControlAndFeaturesWrites : Prop :=
  ∀ s t : State, s.cfg.wf = true → step s = .next t →
    ∃ evs, AddsEvents s t evs ∧ ∀ v, .portWrite8 (portAddr s.cfg .features) v ∉ evs ∧
      (.portWrite8 (portAddr s.cfg .devCtl) v ∈ evs → v = 0x06#8 ∨ v = 0x02#8 ∨ v = 0x00#8)

/-- 70_reset_and_hazards.md R387: only the interrupt entry and `drain` read Status; 43_interrupt_dispatcher.md R282 and
44_bringup_api.md R314: only the interrupt entry sends EOI and only `setInterruptMode` masks or unmasks the line. -/
def Obligations.StatusReadsAndControllerRequests : Prop :=
  ∀ (i : Instr) (s t : State), s.cfg.wf = true → exec i s = .next t →
    ∃ evs, AddsEvents s t evs ∧
      (∀ v, .portRead8 (portAddr s.cfg .status) v ∈ evs → i = .onInterrupt ∨ i = .initializeBlock) ∧
      (∀ l, .sendEOI l ∈ evs → i = .onInterrupt ∧ l = s.cfg.irqLine) ∧
      (∀ l, .maskLine l ∈ evs → i = .setInterruptMode false ∧ l = s.cfg.irqLine) ∧
      (∀ l, .unmaskLine l ∈ evs → i = .setInterruptMode true ∧ l = s.cfg.irqLine)

/-- 20_memory.md R71: an operation that runs no unit transfer makes no access to caller memory; it always answers
(60_exceptions.md R344). -/
def Obligations.OnlyTransfersTouchMemory : Prop :=
  ∀ (i : Instr) (s : State), touchesMemory i = false →
    ∃ t evs, exec i s = .next t ∧ t.mem = s.mem ∧ AddsEvents s t evs ∧ ∀ e ∈ evs, isMemoryEvent e = false

/-! ## One command at a time -/

/-- 70_reset_and_hazards.md R390: while a command is active, an operation that would start one or change what it relies
on answers `PROTOCOL_VIOLATION` and does nothing else. -/
def Obligations.OneCommandAtATime : Prop :=
  ∀ (i : Instr) (s : State), startsCommand i = true → s.tag ≠ .none →
    exec i s = .next (s.setResult .protocolViolation .none)

/-- 42_command_transfer.md R220: the guard, and that every read, write, flush and set-multiple operation makes it before
any port access. -/
def Obligations.CommandGuardRule : Prop :=
  (∀ s : State, (s.identified = false → commandGuard s = (.protocolViolation, s)) ∧
    (s.tag ≠ .none → commandGuard s = (.protocolViolation, s)) ∧
    (s.identified = true → s.tag = .none → commandGuard s = (.ok, s))) ∧
  ∀ (i : Instr) (s : State), guardedCommand i = true → s.identified = false ∨ s.tag ≠ .none →
    exec i s = .next (s.setResult .protocolViolation .none)

/-- 10_state.md R36: the tag leaves `NONE` only with a write of `P_COMMAND`, and returns to it only after an Alternate
Status read with BSY and DRQ clear or at the end of a software reset, alone or in `initialize`. -/
def Obligations.TagTransitions : Prop :=
  ∀ (i : Instr) (s t : State), exec i s = .next t →
    ∃ evs, AddsEvents s t evs ∧
      (s.tag = .none → t.tag ≠ .none → ∃ op, tagOf op = t.tag ∧ commandEvent s.cfg op ∈ evs) ∧
      (s.tag ≠ .none → t.tag = .none → i = .softwareReset ∨ i = .initializeBlock ∨
        ∃ v, .portRead8 (portAddr s.cfg .altStatus) v ∈ evs ∧ v.getLsbD 7 = false ∧ v.getLsbD 3 = false)

/-! ## The register protocol layer -/

/-- 40_register_protocol.md R144 to R146 and R152: one read, and the bit or byte of it as the value. -/
def Obligations.SingleShotReads : Prop :=
  ∀ s : State,
    exec .isBusy s = .next ((s.ranIo 1 [s.altRead 0]).setResult .ok (.bool ((s.nextByte 0).getLsbD 7))) ∧
    exec .isDataRequestPending s =
      .next ((s.ranIo 1 [s.altRead 0]).setResult .ok (.bool ((s.nextByte 0).getLsbD 3))) ∧
    exec .hasError s = .next ((s.ranIo 1 [s.altRead 0]).setResult .ok
      (.bool ((s.nextByte 0).getLsbD 0 || (s.nextByte 0).getLsbD 5))) ∧
    exec .getError s = .next ((s.ranIo 1 [.portRead8 (s.cfg.ioBase + 1#16) (s.nextByte 0)]).setResult .ok
      (.byte (s.nextByte 0)))

/-- 40_register_protocol.md R147: exactly `WAIT400_READS` reads, and nothing else. -/
def Obligations.Wait400MakesExactReads : Prop :=
  ∀ s : State, exec .wait400ns s =
    .next ((s.ranIo s.cfg.wait400Reads (s.altReads 0 s.cfg.wait400Reads)).setResult .ok .none)

/-- 40_register_protocol.md R140: a success at the attempt `k` makes `k + 1` reads with `k` delays between them, a
failure exactly `budget` reads and `budget - 1` delays. -/
def Obligations.WaitBitBudgetExact : Prop :=
  ∀ (bit : Nat) (target : Bool) (budget : Nat) (s : State),
    (∀ k, k < budget → s.waitMeets bit target 0 k →
      waitBit bit target budget s = (.ok, s.ranIo (k + 1) (s.attempts 0 (k + 1)))) ∧
    (s.waitMisses bit target 0 budget → waitBit bit target budget s = (.timeout, s.ranIo budget (s.attempts 0 budget)))

/-- 40_register_protocol.md R141 to R143. -/
def Obligations.NamedWaits : Prop :=
  ∀ (target : Bool) (s : State) (i : Instr) (bit : Nat),
    (i, bit) ∈ [(Instr.waitBusy target, 7), (Instr.waitDataRequest target, 3), (Instr.waitDeviceReady target, 6)] →
    (∀ k, k < s.cfg.waitBudget → s.waitMeets bit target 0 k →
      exec i s = .next ((s.ranIo (k + 1) (s.attempts 0 (k + 1))).setResult .ok .none)) ∧
    (s.waitMisses bit target 0 s.cfg.waitBudget →
      exec i s = .next ((s.ranIo s.cfg.waitBudget (s.attempts 0 s.cfg.waitBudget)).setResult .timeout .none))

/-- 40_register_protocol.md R150: every outcome of a drive select. -/
def Obligations.SelectDriveOutcomes : Prop :=
  ∀ (dev1 : BitVec 1) (s : State), let w := s.cfg.wait400Reads
    (s.tag ≠ .none → exec (.selectDrive dev1) s = .next (s.setResult .protocolViolation .none)) ∧
    (s.tag = .none →
      (statusIdle (s.nextByte 0) = false →
        exec (.selectDrive dev1) s = .next ((s.ranIo 1 [s.altRead 0]).setResult .protocolViolation .none)) ∧
      (statusIdle (s.nextByte 0) = true → s.waitMisses 7 false (w + 1) s.cfg.selectBudget →
        exec (.selectDrive dev1) s = .next ((s.ranIo (w + 1 + s.cfg.selectBudget)
          (s.selectHead dev1 0 ++ s.attempts (w + 1) s.cfg.selectBudget)).setResult .timeout .none)) ∧
      (∀ p, statusIdle (s.nextByte 0) = true → p < s.cfg.selectBudget → s.waitMeets 7 false (w + 1) p →
        statusFailed (s.nextByte (w + p + 2)) = true →
        exec (.selectDrive dev1) s =
          .next ((s.ranIo (w + p + 3) (s.selectEvents dev1 0 p)).setResult .deviceError .none)) ∧
      (∀ p, s.selectMeets 0 p →
        exec (.selectDrive dev1) s =
          .next (((s.ranIo (w + p + 3) (s.selectEvents dev1 0 p)).setSelectedDrive dev1).setResult .ok .none)))

/-- 40_register_protocol.md R151: every outcome of a software reset, whatever the tag. -/
def Obligations.SoftwareResetOutcomes : Prop :=
  ∀ s : State, let w := s.cfg.wait400Reads
    (statusBsy (s.nextByte 0) = true →
      exec .softwareReset s = .next ((s.ranIo 1 [s.altRead 0]).setResult .protocolViolation .none)) ∧
    (statusBsy (s.nextByte 0) = false → s.waitMisses 7 false (w + 1) s.cfg.resetPollBudget →
      exec .softwareReset s = .next ((((s.ranIo (w + 1 + s.cfg.resetPollBudget)
        (s.resetHead 0 ++ s.attempts (w + 1) s.cfg.resetPollBudget)).setIntEnabled false).endCommand).setResult
          .timeout .none)) ∧
    (∀ p, statusBsy (s.nextByte 0) = false → p < s.cfg.resetPollBudget → s.waitMeets 7 false (w + 1) p →
      statusFailed (s.nextByte (w + p + 2)) = true →
      exec .softwareReset s = .next ((((s.ranIo (w + p + 3) (s.resetEvents 0 p)).setIntEnabled false).endCommand).setResult
        .deviceError .none)) ∧
    (∀ p, s.resetMeets 0 p →
      exec .softwareReset s = .next ((((s.ranIo (w + p + 3) (s.resetEvents 0 p ++
        [.portWrite8 (portAddr s.cfg .devCtl) (if s.intEnabled then 0x00#8 else 0x02#8)])).setSelectedDrive
          0#1).endCommand).setResult .ok .none))

/-! ## Device identification -/

/-- 41_identify.md R184: the parse fails exactly where one of the three checks does, and then the data phase answers
`CAPABILITY_ABSENT`. -/
def Obligations.ParseMandatoryChecks : Prop :=
  ∀ w : IdentBuf,
    (parseIdentify w = none ↔ w[(0 : Fin 256)].getLsbD 15 = true ∨ w[(49 : Fin 256)].getLsbD 9 = false ∨
      w[(83 : Fin 256)].getLsbD 13 = false) ∧
    ∀ s : State, (∀ i : Fin 256, w[i] = s.nth (i.val + 1)) → statusBsy (s.nextByte 0) = false →
      statusDrq (s.nextByte 0) = true → parseIdentify w = none → (identifyData s).1 = .capabilityAbsent

/-- 41_identify.md R185 to R187. -/
def Obligations.ParseCapabilityFields : Prop :=
  ∀ (w : IdentBuf) (f : Descriptor), parseIdentify w = some f →
    f.maxMultipleSectorSize.toNat = w[(47 : Fin 256)].toNat % 256 ∧
    (f.hasMultipleCmd = true ↔ w[(47 : Fin 256)].toNat % 256 ≠ 0) ∧
    f.hasDma = w[(49 : Fin 256)].getLsbD 8 ∧ f.hasLba48 = w[(83 : Fin 256)].getLsbD 10 ∧
    f.hasFlushExt = w[(83 : Fin 256)].getLsbD 12 ∧
    f.currentMultipleSectorSize.toNat =
      (if w[(59 : Fin 256)].getLsbD 8 then w[(59 : Fin 256)].toNat % 256 else 0)

/-- 41_identify.md R188 and R192: the sector counts and the sector size, low word first. -/
def Obligations.ParseSectorCountsAndSize : Prop :=
  ∀ (w : IdentBuf) (f : Descriptor), parseIdentify w = some f →
    let pair := fun (lo hi : Fin 256) => w[lo].toNat + 65536 * w[hi].toNat
    (0x0FFF < w[(61 : Fin 256)].toNat →
      f.lowerMaxNumSectors.toNat = pair 100 101 ∧ f.upperMaxNumSectors.toNat = pair 102 103) ∧
    (w[(61 : Fin 256)].toNat ≤ 0x0FFF → f.lowerMaxNumSectors.toNat = pair 60 61 ∧ f.upperMaxNumSectors = 0#32) ∧
    (8 ≤ f.maxAtaVersion.toNat → pair 117 118 ≠ 0 → f.sectorSize.toNat = pair 117 118) ∧
    (f.maxAtaVersion.toNat < 8 ∨ pair 117 118 = 0 → f.sectorSize = 256#32)

/-- 41_identify.md R190 and R191: the ATA version and the UDMA modes are the highest set bits of their ranges. -/
def Obligations.ParseVersionAndUdma : Prop :=
  ∀ (w : IdentBuf) (f : Descriptor), parseIdentify w = some f →
    let v := w[(80 : Fin 256)]
    (v = 0x0000#16 ∨ v = 0xFFFF#16 → f.maxAtaVersion = 0#8) ∧
    (v ≠ 0x0000#16 → v ≠ 0xFFFF#16 →
      (∀ i, 2 ≤ i → i ≤ 8 → v.getLsbD i = true → (∀ j, i < j → j ≤ 8 → v.getLsbD j = false) →
        f.maxAtaVersion.toNat = i) ∧
      ((∀ i, 2 ≤ i → i ≤ 8 → v.getLsbD i = false) → f.maxAtaVersion = 0#8)) ∧
    highestBit (if w[(53 : Fin 256)].getLsbD 2 then w[(88 : Fin 256)] else 0#16) 0
      (if 8 ≤ f.maxAtaVersion.toNat then 6 else 5) f.udmaSupported ∧
    highestBit (if w[(53 : Fin 256)].getLsbD 2 then w[(88 : Fin 256)] else 0#16) 8
      (if 8 ≤ f.maxAtaVersion.toNat then 6 else 5) f.udmaSelected

/-- 41_identify.md R182 and R189: every outcome of the data phase, and what a commit writes. -/
def Obligations.IdentifyDataOutcomes : Prop :=
  ∀ s : State,
    (statusBsy (s.nextByte 0) = true → identifyData s = (.busyRetry, s.ranIo 1 [s.altRead 0])) ∧
    (statusBsy (s.nextByte 0) = false → statusDrq (s.nextByte 0) = false →
      identifyData s = (if statusFailed (s.nextByte 0) then .deviceError else .protocolViolation,
        (s.ranIo 1 [s.altRead 0]).endCommand)) ∧
    (statusBsy (s.nextByte 0) = false → statusDrq (s.nextByte 0) = true →
      ∀ w : IdentBuf, (∀ i : Fin 256, w[i] = s.nth (i.val + 1)) →
        (parseIdentify w = none → identifyData s = (.capabilityAbsent,
          { s.ranIo 257 (s.altRead 0 :: s.dataReads 1 256) with identBuf := w, identified := false })) ∧
        (∀ f, parseIdentify w = some f → identifyData s = (.ok,
          { s.ranIo 257 (s.altRead 0 :: s.dataReads 1 256) with identBuf := w, desc := f, identified := true })))

/-- 41_identify.md R181, polled: the command, the 256 words, the commit and the finish check. -/
def Obligations.IdentifyCompletesPolled : Prop :=
  ∀ (i : Instr) (s : State) (p q : Nat) (f : Descriptor), i = .identify ∨ i = .identifyDevice →
    s.tag = .none → s.intEnabled = false → s.identifyMeets 0 p q → parseIdentify (s.identifyWords 0 p) = some f →
    exec i s = .next (((((s.ranIo (2 * s.cfg.wait400Reads + p + q + 262) (s.identifyEvents 0 p q)).setIdentBuf
      (s.identifyWords 0 p)).commit f).endCommand).setResult
        (if statusFailed (s.nextByte (2 * s.cfg.wait400Reads + p + q + 261)) then .deviceError else .ok) .none)

/-- 41_identify.md R181 and R193, interrupt mode: the command is issued and the tag set; the dispatcher does the rest. -/
def Obligations.IdentifyCompletesInInterruptMode : Prop :=
  ∀ (i : Instr) (s : State), i = .identify ∨ i = .identifyDevice →
    s.tag = .none → s.intEnabled = true → s.identifyIssueMeets 0 →
    exec i s = .next (((s.ranIo (s.cfg.wait400Reads + 2) (s.identifyIssueEvents 0)).setTag .identify).setResult .ok .none)

/-- 41_identify.md R181: the failing exits of IDENTIFY. A timeout, a busy data check and a finish check that is not idle
leave the tag; a failed parse still ends the command, and is reported before the finish check. -/
def Obligations.IdentifyExits : Prop :=
  ∀ (i : Instr) (s : State), i = .identify ∨ i = .identifyDevice → s.tag = .none →
    let w := s.cfg.wait400Reads
    let n := s.cfg.pollBudget
    (statusIdle (s.nextByte 0) = false ∨ statusDrdy (s.nextByte 0) = false →
      exec i s = .next ((s.ranIo 1 [s.altRead 0]).setResult .protocolViolation .none)) ∧
    (statusIdle (s.nextByte 0) = true → statusDrdy (s.nextByte 0) = true →
      immediateError (s.nextByte (w + 1)) = true →
      exec i s = .next (((s.ranIo (w + 2) (s.identifyIssueEvents 0)).endCommand).setResult .deviceError .none)) ∧
    (s.intEnabled = false →
      (s.identifyIssueMeets 0 → s.waitMisses 7 false (w + 2) n →
        exec i s = .next (((s.ranIo (w + 2 + n) (s.identifyIssueEvents 0 ++ s.attempts (w + 2) n)).setTag
          .identify).setResult .timeout .none)) ∧
      (∀ p, s.identifyPollMeets 0 p → statusBsy (s.nextByte (w + p + 3)) = true →
        exec i s = .next (((s.ranIo (w + p + 4) (s.identifyPollEvents 0 p)).setTag .identify).setResult
          .busyRetry .none)) ∧
      (∀ p, s.identifyPollMeets 0 p → statusBsy (s.nextByte (w + p + 3)) = false →
        statusDrq (s.nextByte (w + p + 3)) = false →
        exec i s = .next (((s.ranIo (w + p + 4) (s.identifyPollEvents 0 p)).endCommand).setResult
          (if statusFailed (s.nextByte (w + p + 3)) then .deviceError else .protocolViolation) .none)) ∧
      (∀ p, s.identifyDataMeets 0 p → s.waitMisses 7 false (2 * w + p + 260) n →
        exec i s = .next ((((s.ranIo (2 * w + p + 260 + n) (s.identifyDataEvents 0 p ++
          s.attempts (2 * w + p + 260) n)).parsedInto (s.identifyWords 0 p)).setTag .identify).setResult
            .timeout .none)) ∧
      (∀ p q, s.identifyDataMeets 0 p → q < n → s.waitMeets 7 false (2 * w + p + 260) q →
        statusIdle (s.nextByte (2 * w + p + q + 261)) = false →
        exec i s = .next ((((s.ranIo (2 * w + p + q + 262) (s.identifyEvents 0 p q)).parsedInto
          (s.identifyWords 0 p)).setTag .identify).setResult
            (if parseIdentify (s.identifyWords 0 p) = none then .capabilityAbsent else .protocolViolation) .none)) ∧
      (∀ p q, s.identifyMeets 0 p q → parseIdentify (s.identifyWords 0 p) = none →
        exec i s = .next (((((s.ranIo (2 * w + p + q + 262) (s.identifyEvents 0 p q)).setIdentBuf
          (s.identifyWords 0 p)).setIdentified false).endCommand).setResult .capabilityAbsent .none)))

/-! ## Read and write commands -/

/-- 30_encoding.md R111: the table of opcodes. -/
def Obligations.OpcodeSelection : Prop :=
  ∀ d : Descriptor, let m := d.hasMultipleCmd && decide (d.currentMultipleSectorSize ≠ 0#8)
    opcodeByte (selectOpcode d .read) =
      (if d.hasLba48 then (if m then 0x29#8 else 0x24#8) else (if m then 0xC4#8 else 0x20#8)) ∧
    opcodeByte (selectOpcode d .write) =
      (if d.hasLba48 then (if m then 0x39#8 else 0x34#8) else (if m then 0xC5#8 else 0x30#8))

/-- 30_encoding.md R102 and R103: the register writes of a read or write command, in order, with the opcode last. -/
def Obligations.TaskFileImages : Prop :=
  ∀ (op : AtaOpcode) (buf : Addr) (start count : DWord) (s : State),
    let p := fun (k : Nat) => s.cfg.ioBase + BitVec.ofNat 16 k
    let byte := fun (k : Nat) => BitVec.ofNat 8 k
    (s.desc.hasLba48 = false → AddsEvents s (issueImage op buf start count s)
      [.portWrite8 (p 6) (byte (0xE0 + 16 * s.selectedDrive.toNat + start.toNat / 2 ^ 24 % 16)),
       .portWrite8 (p 2) (byte count.toNat), .portWrite8 (p 3) (byte start.toNat),
       .portWrite8 (p 4) (byte (start.toNat / 2 ^ 8)), .portWrite8 (p 5) (byte (start.toNat / 2 ^ 16)),
       .portWrite8 (p 7) (opcodeByte op)]) ∧
    (s.desc.hasLba48 = true → AddsEvents s (issueImage op buf start count s)
      [.portWrite8 (p 6) (byte (0xE0 + 16 * s.selectedDrive.toNat)), .portWrite8 (p 2) (byte (count.toNat / 2 ^ 8)),
       .portWrite8 (p 3) (byte (start.toNat / 2 ^ 24)), .portWrite8 (p 4) 0x00#8, .portWrite8 (p 5) 0x00#8,
       .portWrite8 (p 2) (byte count.toNat), .portWrite8 (p 3) (byte start.toNat),
       .portWrite8 (p 4) (byte (start.toNat / 2 ^ 8)), .portWrite8 (p 5) (byte (start.toNat / 2 ^ 16)),
       .portWrite8 (p 7) (opcodeByte op)])

/-- 42_command_transfer.md R225 to R233, R240 and R241, interrupt mode: the command is issued, the tag and the cursor are
set and no data moves; an immediate error ends the command. -/
def Obligations.TransferIssueCompletes : Prop :=
  ∀ (i : Instr) (s : State) (dir : Dir) (buf : Addr) (start count : DWord) (a b c : Nat),
    transferRequest s.desc i = some (dir, buf, start, count) → s.identified = true → s.tag = .none →
    argsOk s.cfg s.desc buf start count = true → s.readyMeets a b c →
    let k := a + b + c + 3
    let u := s.ranIo (k + s.cfg.wait400Reads + 1) (s.readyEvents a b c ++
      imageEvents s.cfg (imageRW s.desc.hasLba48 s.selectedDrive start count) ++
      s.issueEvents (selectOpcode s.desc dir) k)
    (s.issueMeets k → s.intEnabled = true →
      exec i s = .next (((u.setTag (tagOf (selectOpcode s.desc dir))).setCursor buf count).setResult .ok .none)) ∧
    (¬ s.issueMeets k → exec i s = .next (u.endCommand.setResult .deviceError .none))

/-- One of the eight commands asked for by name where the block's selection is another one: `PROTOCOL_VIOLATION` and no
access. This is the model's choice (log 4). -/
def Obligations.NamedCommandNotSelected : Prop :=
  ∀ (i : Instr) (op : AtaOpcode) (dir : Dir) (s : State), namedTransfer i = some (op, dir) →
    selectOpcode s.desc dir ≠ op → exec i s = .next (s.setResult .protocolViolation .none)

/-- 42_command_transfer.md R238, R239 and R242: what the argument checks refuse, and with what. -/
def Obligations.ArgumentChecks : Prop :=
  ∀ (i : Instr) (s : State) (dir : Dir) (buf : Addr) (start count : DWord),
    let maxCount := if s.desc.hasLba48 then 65535 else 255
    let limit := if s.desc.upperMaxNumSectors ≠ 0#32 then 2 ^ 32 else s.desc.lowerMaxNumSectors.toNat
    let limit := if s.desc.hasLba48 then limit else min limit (2 ^ 28)
    (argsOk s.cfg s.desc buf start count = false ↔
      (count = 0#32 ∨ maxCount < count.toNat) ∨ limit < start.toNat + count.toNat ∨
      (buf = 0#64 ∨ 2 ^ s.cfg.ptrWidth.bits ≤ buf.toNat + 2 * count.toNat * s.desc.sectorSize.toNat)) ∧
    (transferRequest s.desc i = some (dir, buf, start, count) → s.identified = true → s.tag = .none →
      argsOk s.cfg s.desc buf start count = false → exec i s = .next (s.setResult .invalidArgument .none))

/-- 42_command_transfer.md R236 and R240, 20_memory.md R76: a polled read that answers `OK` has put every word it read
from the Data register, in order, into the buffer, and has read exactly `count * sectorSize` of them. -/
def Obligations.PolledReadDelivers : Prop :=
  ∀ (i : Instr) (s t : State) (buf : Addr) (start count : DWord),
    transferRequest s.desc i = some (.read, buf, start, count) → s.intEnabled = false → Memory.wf s.mem = true →
    exec i s = .next t → t.result = some ⟨.ok, .none⟩ →
    t.tag = .none ∧ ∃ evs, AddsEvents s t evs ∧
      dataWordsIn evs = Memory.words t.mem buf.toNat (count.toNat * s.desc.sectorSize.toNat) ∧ dataWordsOut evs = []

/-- 42_command_transfer.md R236 and R241, 20_memory.md R76: a polled write that answers `OK` has written every word of
the buffer, in order, to the Data register, and nothing else. -/
def Obligations.PolledWriteDelivers : Prop :=
  ∀ (i : Instr) (s t : State) (buf : Addr) (start count : DWord),
    transferRequest s.desc i = some (.write, buf, start, count) → s.intEnabled = false →
    exec i s = .next t → t.result = some ⟨.ok, .none⟩ →
    t.tag = .none ∧ t.mem = s.mem ∧ ∃ evs, AddsEvents s t evs ∧
      dataWordsOut evs = Memory.words s.mem buf.toNat (count.toNat * s.desc.sectorSize.toNat) ∧ dataWordsIn evs = []

/-- 42_command_transfer.md R225 and R236: a polled read of one unit, with every event it makes; where the last poll runs
out (R236) or the finish check is not on an idle status (R224), the tag and the cursor stay. -/
def Obligations.PolledReadOneUnitCompletes : Prop :=
  ∀ (i : Instr) (s : State) (buf : Addr) (start count : DWord) (a b c p : Nat),
    let w := s.cfg.wait400Reads
    let k := a + b + c + 3
    let d := k + w + p + 2
    let n := count.toNat * s.desc.sectorSize.toNat
    let e := d + 1 + n + w
    let sent := s.commandEvents .read start count a b c ++ s.attempts (k + w + 1) (p + 1) ++ [s.altRead d] ++
      s.unitInEvents (d + 1) buf.toNat n ++ s.altReads (d + 1 + n) w
    transferRequest s.desc i = some (.read, buf, start, count) → s.identified = true → s.tag = .none →
    s.intEnabled = false → argsOk s.cfg s.desc buf start count = true → s.readyMeets a b c → s.issueMeets k →
    p < s.cfg.pollBudget → s.waitMeets 7 false (k + w + 1) p → statusBsy (s.nextByte d) = false →
    statusDrq (s.nextByte d) = true →
    count.toNat ≤ (if multipleOn s.desc then s.desc.currentMultipleSectorSize.toNat else 1) →
    Memory.wf s.mem = true → s.admitsRange buf.toNat (2 * n) →
    ∃ m, Memory.Stored s.mem m buf.toNat (s.nextWords (d + 1) n) ∧
      let moved : State := { s with mem := m }
      let held := fun (t : State) => t.inCommand .read (buf + BitVec.ofNat 64 (2 * n)) 0#32
      (∀ q, s.finishMeets e q →
        exec i s = .next ((moved.ranIo (e + q + 2) (sent ++ s.finishEvents e q)).endCommand.setResult
          (if statusFailed (s.nextByte (e + q + 1)) then .deviceError else .ok) .none)) ∧
      (s.waitMisses 7 false e s.cfg.pollBudget →
        exec i s = .next ((held (moved.ranIo (e + s.cfg.pollBudget) (sent ++ s.attempts e s.cfg.pollBudget))).setResult
          .timeout .none)) ∧
      (∀ q, q < s.cfg.pollBudget → s.waitMeets 7 false e q → statusIdle (s.nextByte (e + q + 1)) = false →
        exec i s = .next ((held (moved.ranIo (e + q + 2) (sent ++ s.finishEvents e q))).setResult
          .protocolViolation .none))

/-- 42_command_transfer.md R225 and R236: a polled write of one unit, with every event it makes; where the last poll runs
out (R236) or the finish check is not on an idle status (R224), the tag and the cursor stay. -/
def Obligations.PolledWriteOneUnitCompletes : Prop :=
  ∀ (i : Instr) (s : State) (buf : Addr) (start count : DWord) (a b c p : Nat),
    let w := s.cfg.wait400Reads
    let k := a + b + c + 3
    let d := k + w + p + 2
    let n := count.toNat * s.desc.sectorSize.toNat
    let e := d + 1 + w
    let sent := s.commandEvents .write start count a b c ++ s.attempts (k + w + 1) (p + 1) ++ [s.altRead d] ++
      s.unitOutEvents buf.toNat n ++ s.altReads (d + 1) w
    let held := fun (t : State) => t.inCommand .write (buf + BitVec.ofNat 64 (2 * n)) 0#32
    transferRequest s.desc i = some (.write, buf, start, count) → s.identified = true → s.tag = .none →
    s.intEnabled = false → argsOk s.cfg s.desc buf start count = true → s.readyMeets a b c → s.issueMeets k →
    p < s.cfg.pollBudget → s.waitMeets 7 false (k + w + 1) p → statusBsy (s.nextByte d) = false →
    statusDrq (s.nextByte d) = true →
    count.toNat ≤ (if multipleOn s.desc then s.desc.currentMultipleSectorSize.toNat else 1) →
    s.admitsRange buf.toNat (2 * n) →
    (∀ q, s.finishMeets e q →
      exec i s = .next ((s.ranIo (e + q + 2) (sent ++ s.finishEvents e q)).endCommand.setResult
        (if statusFailed (s.nextByte (e + q + 1)) then .deviceError else .ok) .none)) ∧
    (s.waitMisses 7 false e s.cfg.pollBudget →
      exec i s = .next ((held (s.ranIo (e + s.cfg.pollBudget) (sent ++ s.attempts e s.cfg.pollBudget))).setResult
        .timeout .none)) ∧
    (∀ q, q < s.cfg.pollBudget → s.waitMeets 7 false e q → statusIdle (s.nextByte (e + q + 1)) = false →
      exec i s = .next ((held (s.ranIo (e + q + 2) (sent ++ s.finishEvents e q))).setResult .protocolViolation .none))

/-- 20_memory.md R79 and 00_scope.md R18: on a buffer that caller memory admits, a read or write always answers, in
either mode and whatever the device does. -/
def Obligations.TransferAnswersOnAdmittedBuffer : Prop :=
  ∀ (i : Instr) (s : State) (dir : Dir) (buf : Addr) (start count : DWord),
    transferRequest s.desc i = some (dir, buf, start, count) →
    s.admitsRange buf.toNat (2 * count.toNat * s.desc.sectorSize.toNat) → ∃ t, exec i s = .next t

/-- 42_command_transfer.md R235 and R236: the exits of a polled read or write before its first unit has moved: the first
poll runs out (the tag and the cursor stay), the status before the burst shows BSY or no DRQ, and 20_memory.md R79, the
operation is stuck at a word that is not admitted. And wherever a polled read or write times out with its command sent, the
tag is that command's and the cursor stands past the words moved. -/
def Obligations.PolledTransferExits : Prop :=
  (∀ (i : Instr) (s : State) (dir : Dir) (buf : Addr) (start count : DWord) (a b c : Nat),
    let j := a + b + c + s.cfg.wait400Reads + 4
    let n := s.cfg.pollBudget
    let sent := s.commandEvents dir start count a b c
    transferRequest s.desc i = some (dir, buf, start, count) → s.identified = true → s.tag = .none →
    s.intEnabled = false → argsOk s.cfg s.desc buf start count = true → s.readyMeets a b c →
    s.issueMeets (a + b + c + 3) →
    (s.waitMisses 7 false j n →
      exec i s = .next (((s.ranIo (j + n) (sent ++ s.attempts j n)).inCommand dir buf count).setResult .timeout .none)) ∧
    ∀ p, p < n → s.waitMeets 7 false j p →
      let d := j + p + 1
      let u := s.ranIo (d + 1) (sent ++ s.attempts j (p + 1) ++ [s.altRead d])
      (statusBsy (s.nextByte d) = true →
        exec i s = .next ((u.inCommand dir buf count).setResult .busyRetry .none)) ∧
      (statusBsy (s.nextByte d) = false → statusDrq (s.nextByte d) = false →
        exec i s = .next (u.endCommand.setResult
          (if statusFailed (s.nextByte d) then .deviceError else .protocolViolation) .none)) ∧
      (∀ x, statusBsy (s.nextByte d) = false → statusDrq (s.nextByte d) = true →
        x < firstUnit s.desc count * s.desc.sectorSize.toNat → s.admitsRange buf.toNat (2 * x) →
        (s.admits (buf.toNat + 2 * x) && s.admits (buf.toNat + 2 * x + 1)) = false →
        exec i s = .fault (.callerMemoryNotAdmitted (buf.toNat + 2 * x)))) ∧
  ∀ (i : Instr) (s t : State) (dir : Dir) (buf : Addr) (start count : DWord),
    transferRequest s.desc i = some (dir, buf, start, count) → s.intEnabled = false →
    exec i s = .next t → t.result = some ⟨.timeout, .none⟩ →
    ∃ evs, AddsEvents s t evs ∧ (commandEvent s.cfg (selectOpcode s.desc dir) ∈ evs →
      let moved := (dataWordsIn evs).length + (dataWordsOut evs).length
      t.tag = tagOf (selectOpcode s.desc dir) ∧ t.cursorPtr.toNat = buf.toNat + 2 * moved ∧
      t.remaining.toNat * s.desc.sectorSize.toNat + moved = count.toNat * s.desc.sectorSize.toNat)

/-- 42_command_transfer.md R235: a unit moves, in the direction the tag gives, and the cursor advances past it. -/
def Obligations.TransferUnitCompletes : Prop :=
  ∀ s : State, s.unitReady → statusBsy (s.nextByte 0) = false → statusDrq (s.nextByte 0) = true →
    (s.tag.isRead = true → Memory.wf s.mem = true →
      ∃ m, Memory.Stored s.mem m s.cursorPtr.toNat (s.nextWords 1 (unitWords s)) ∧
        exec .transferUnit s = .next ((s.pastUnit (({ s with mem := m } : State).ranIo (unitWords s + 1)
          (s.altRead 0 :: s.unitInEvents 1 s.cursorPtr.toNat (unitWords s)))).setResult .ok .none)) ∧
    (s.tag.isRead = false →
      exec .transferUnit s = .next ((s.pastUnit (s.ranIo 1
        (s.altRead 0 :: s.unitOutEvents s.cursorPtr.toNat (unitWords s)))).setResult .ok .none))

/-- 42_command_transfer.md R235: the exits without a unit; and 20_memory.md R79: at the first word that caller memory
does not admit the operation is stuck. -/
def Obligations.TransferUnitExits : Prop :=
  ∀ s : State,
    (s.tag.isData = false ∨ s.remaining = 0#32 →
      exec .transferUnit s = .next (s.setResult .protocolViolation .none)) ∧
    (s.tag.isData = true → s.remaining ≠ 0#32 →
      (statusBsy (s.nextByte 0) = true →
        exec .transferUnit s = .next ((s.ranIo 1 [s.altRead 0]).setResult .busyRetry .none)) ∧
      (statusBsy (s.nextByte 0) = false → statusDrq (s.nextByte 0) = false →
        exec .transferUnit s = .next (((s.ranIo 1 [s.altRead 0]).endCommand).setResult
          (if statusFailed (s.nextByte 0) then .deviceError else .protocolViolation) .none)) ∧
      (∀ j, statusBsy (s.nextByte 0) = false → statusDrq (s.nextByte 0) = true → j < unitWords s →
        s.admitsRange s.cursorPtr.toNat (2 * j) →
        (s.admits (s.cursorPtr.toNat + 2 * j) && s.admits (s.cursorPtr.toNat + 2 * j + 1)) = false →
        exec .transferUnit s = .fault (.callerMemoryNotAdmitted (s.cursorPtr.toNat + 2 * j))))

/-- 20_memory.md R77: a word occupies two bytes, the low one first, and reads back as it was written. -/
def Obligations.CallerWordRoundTrip : Prop :=
  ∀ (s t : State) (a : Nat) (v : Word), Memory.wf s.mem = true → memWrite16 a v s = .ok t →
    Memory.read t.mem a = v.extractLsb' 0 8 ∧ Memory.read t.mem (a + 1) = v.extractLsb' 8 8 ∧
    (∀ x, x ≠ a → x ≠ a + 1 → Memory.read t.mem x = Memory.read s.mem x) ∧
    memRead16 a t = .ok (v, t.emit (.memRead a v)) ∧
    ∀ r, memRead16 a s = .ok r → r.1 = Memory.read s.mem (a + 1) ++ Memory.read s.mem a

/-- 42_command_transfer.md R225, 20_memory.md R76: a read or write keeps the descriptor and every byte of memory outside
its buffer, a write every byte; a unit transfer and an interrupt every byte outside the unit at the cursor. -/
def Obligations.TransferFrame : Prop :=
  (∀ (i : Instr) (s t : State) (dir : Dir) (buf : Addr) (start count : DWord),
    transferRequest s.desc i = some (dir, buf, start, count) → Memory.wf s.mem = true → exec i s = .next t →
    (t.desc = s.desc ∧ t.identified = s.identified ∧ t.intEnabled = s.intEnabled ∧
      t.selectedDrive = s.selectedDrive ∧ t.identBuf = s.identBuf) ∧ (dir = .write → t.mem = s.mem) ∧
    ∀ x, x < buf.toNat ∨ buf.toNat + 2 * count.toNat * s.desc.sectorSize.toNat ≤ x →
      Memory.read t.mem x = Memory.read s.mem x) ∧
  ∀ (i : Instr) (s t : State), i = .transferUnit ∨ i = .onInterrupt → Memory.wf s.mem = true → exec i s = .next t →
    (s.tag ≠ .identify → t.desc = s.desc ∧ t.identified = s.identified ∧ t.identBuf = s.identBuf) ∧
    (t.intEnabled = s.intEnabled ∧ t.selectedDrive = s.selectedDrive) ∧ (s.tag.isRead = false → t.mem = s.mem) ∧
    ∀ x, x < s.cursorPtr.toNat ∨ s.cursorPtr.toNat + 2 * unitWords s ≤ x →
      Memory.read t.mem x = Memory.read s.mem x

/-! ## The issue helpers, FLUSH CACHE and SET MULTIPLE MODE -/

/-- 42_command_transfer.md R221: the three waits, one after the other, and the `TIMEOUT` of each. -/
def Obligations.CheckReadyRule : Prop :=
  ∀ s : State, let n := s.cfg.waitBudget
    (∀ a b c, s.readyMeets a b c → checkReady s = (.ok, s.ranIo (a + b + c + 3) (s.readyEvents a b c))) ∧
    (s.waitMisses 7 false 0 n → checkReady s = (.timeout, s.ranIo n (s.attempts 0 n))) ∧
    (∀ a, a < n → s.waitMeets 7 false 0 a → s.waitMisses 3 false (a + 1) n →
      checkReady s = (.timeout, s.ranIo (a + 1 + n) (s.attempts 0 (a + 1) ++ s.attempts (a + 1) n))) ∧
    ∀ a b, a < n → b < n → s.waitMeets 7 false 0 a → s.waitMeets 3 false (a + 1) b →
      s.waitMisses 6 true (a + b + 2) n →
      checkReady s = (.timeout, s.ranIo (a + b + 2 + n)
        (s.attempts 0 (a + 1) ++ s.attempts (a + 1) (b + 1) ++ s.attempts (a + b + 2) n))

/-- 42_command_transfer.md R223 and R224: the immediate error check and the finish check. -/
def Obligations.IssueAndFinishChecks : Prop :=
  ∀ s : State, let w := s.cfg.wait400Reads
    immediateErrorCheck s =
      (if (s.nextByte w).getLsbD 7 = false ∧ (s.nextByte w).getLsbD 0 = true then
        (.deviceError, (s.ranIo (w + 1) (s.altReads 0 (w + 1))).endCommand)
      else (.ok, s.ranIo (w + 1) (s.altReads 0 (w + 1)))) ∧
    finishCheck s =
      (if (s.nextByte 0).getLsbD 7 = false ∧ (s.nextByte 0).getLsbD 3 = false then
        (if (s.nextByte 0).getLsbD 0 || (s.nextByte 0).getLsbD 5 then .deviceError else .ok,
          (s.ranIo 1 [s.altRead 0]).endCommand)
      else (.protocolViolation, s.ranIo 1 [s.altRead 0]))

/-- 42_command_transfer.md R250: FLUSH CACHE in both modes; its immediate error; its timeout and its finish check on a
status that is not idle, which leave the tag. -/
def Obligations.FlushCompletes : Prop :=
  ∀ (i : Instr) (s : State) (a b c : Nat), i = .flush ∨ i = .flushCache → s.identified = true → s.tag = .none →
    let k := a + b + c + 3
    let j := k + s.cfg.wait400Reads + 1
    let n := s.cfg.pollBudget
    let sent := s.readyEvents a b c ++ s.issueEvents .flushCache k
    s.readyMeets a b c →
    (¬ s.issueMeets k → exec i s = .next ((s.ranIo j sent).endCommand.setResult .deviceError .none)) ∧
    (s.issueMeets k →
      (s.intEnabled = true → exec i s = .next (((s.ranIo j sent).setTag .flushCache).setResult .ok .none)) ∧
      (s.intEnabled = false → s.waitMisses 7 false j n →
        exec i s = .next (((s.ranIo (j + n) (sent ++ s.attempts j n)).setTag .flushCache).setResult .timeout .none)) ∧
      (∀ p, s.intEnabled = false → p < n → s.waitMeets 7 false j p → statusIdle (s.nextByte (j + p + 1)) = false →
        exec i s = .next (((s.ranIo (j + p + 2) (sent ++ s.finishEvents j p)).setTag .flushCache).setResult
          .protocolViolation .none)) ∧
      ∀ p, s.intEnabled = false → s.finishMeets j p →
        exec i s = .next ((s.ranIo (j + p + 2) (sent ++ s.finishEvents j p)).endCommand.setResult
          (if statusFailed (s.nextByte (j + p + 1)) then .deviceError else .ok) .none))

/-- 42_command_transfer.md R252: SET MULTIPLE MODE runs to an idle status and records the block size if no error shows. -/
def Obligations.SetMultipleCompletes : Prop :=
  ∀ (i : Instr) (m : Byte) (s : State) (a b c p : Nat), i = .setMultipleMode m ∨ i = .setMultipleModeCommand m →
    s.identified = true → s.tag = .none → s.intEnabled = false → m ≠ 0#8 → s.desc.hasMultipleCmd = true →
    m.toNat ≤ s.desc.maxMultipleSectorSize.toNat → s.multipleMeets 0 a b c p →
    let j := a + b + c + s.cfg.wait400Reads + p + 5
    let u := (s.ranIo (j + 1) (s.multipleEvents m 0 a b c p)).endCommand
    exec i s = .next (if statusFailed (s.nextByte j) then u.setResult .deviceError .none
      else (u.setCurrentMultiple m).setResult .ok .none)

/-- 42_command_transfer.md R252: what SET MULTIPLE MODE refuses; each of its failures, with the tag it leaves (a timeout
of the poll and a finish check that is not idle leave `SET_MULTIPLE`); and on any failure the old block size is kept. -/
def Obligations.SetMultipleRecordsOnSuccessOnly : Prop :=
  ∀ (i : Instr) (m : Byte) (s : State), i = .setMultipleMode m ∨ i = .setMultipleModeCommand m →
    (s.identified = true → s.tag = .none → s.intEnabled = true →
      exec i s = .next (s.setResult .protocolViolation .none)) ∧
    (s.identified = true → s.tag = .none → s.intEnabled = false →
      m = 0#8 ∨ s.desc.hasMultipleCmd = false ∨ s.desc.maxMultipleSectorSize.toNat < m.toNat →
      exec i s = .next (s.setResult .invalidArgument .none)) ∧
    (s.identified = true → s.tag = .none → s.intEnabled = false → m ≠ 0#8 → s.desc.hasMultipleCmd = true →
      m.toNat ≤ s.desc.maxMultipleSectorSize.toNat →
      (∀ t, checkReady s = (.timeout, t) → exec i s = .next (t.setResult .timeout .none)) ∧
      ∀ a b c, s.readyMeets a b c →
        let k := a + b + c + 3
        let j := k + s.cfg.wait400Reads + 1
        let n := s.cfg.pollBudget
        let sent := s.readyEvents a b c ++ .portWrite8 (portAddr s.cfg .count) m :: s.issueEvents .setMultipleMode k
        (¬ s.issueMeets k → exec i s = .next ((s.ranIo j sent).endCommand.setResult .deviceError .none)) ∧
        (s.issueMeets k → s.waitMisses 7 false j n →
          exec i s = .next (((s.ranIo (j + n) (sent ++ s.attempts j n)).setTag .setMultiple).setResult
            .timeout .none)) ∧
        (∀ p, s.issueMeets k → p < n → s.waitMeets 7 false j p → statusIdle (s.nextByte (j + p + 1)) = false →
          exec i s = .next (((s.ranIo (j + p + 2) (sent ++ s.finishEvents j p)).setTag .setMultiple).setResult
            .protocolViolation .none))) ∧
    ∃ t r, exec i s = .next t ∧ t.result = some r ∧
      (r.code = .ok → t.desc = { s.desc with currentMultipleSectorSize := m } ∧ t.tag = .none) ∧
      (r.code ≠ .ok → t.desc = s.desc)

/-! ## The interrupt dispatcher -/

/-- 43_interrupt_dispatcher.md R280 and R281: an interrupt moves one unit; the fresh Alternate Status byte after it ends
the command where the device is idle. -/
def Obligations.OnInterruptUnitCompletes : Prop :=
  ∀ s : State, s.unitReady → statusFailed (s.nextByte 0) = false → statusBsy (s.nextByte 1) = false →
    statusDrq (s.nextByte 1) = true →
    let w := s.cfg.wait400Reads
    let n := unitWords s
    let entry := [Event.portRead8 (portAddr s.cfg .status) (s.nextByte 0), s.altRead 1]
    let done := fun (b : Byte) (t : State) => (if statusIdle b then t.endCommand else t).setResult .ok .none
    (s.tag.isRead = true → Memory.wf s.mem = true →
      ∃ m, Memory.Stored s.mem m s.cursorPtr.toNat (s.nextWords 2 n) ∧
        exec .onInterrupt s = .next (done (s.nextByte (n + w + 2)) (s.pastUnit
          (({ s with mem := m } : State).ranIo (n + w + 3) (entry ++ s.unitInEvents 2 s.cursorPtr.toNat n ++
            s.altReads (n + 2) (w + 1) ++ [.sendEOI s.cfg.irqLine]))))) ∧
    (s.tag.isRead = false →
      exec .onInterrupt s = .next (done (s.nextByte (w + 2)) (s.pastUnit
        (s.ranIo (w + 3) (entry ++ s.unitOutEvents s.cursorPtr.toNat n ++ s.altReads 2 (w + 1) ++
          [.sendEOI s.cfg.irqLine])))))

/-- 43_interrupt_dispatcher.md R280, R283 and R284: an error status, a spurious interrupt, the administrative tags and a data
tag with nothing remaining move no data; nor does a unit that is due while the fresh status shows BSY (nothing changes) or
no DRQ (the command ends, without a completion check); and 20_memory.md R79, at the first word that caller memory does not
admit the operation is stuck. -/
def Obligations.OnInterruptWithoutUnit : Prop :=
  ∀ s : State, let w := s.cfg.wait400Reads
    let entry := Event.portRead8 (portAddr s.cfg .status) (s.nextByte 0)
    (statusFailed (s.nextByte 0) = true →
      exec .onInterrupt s = .next ((s.ranIo 1 [entry, .sendEOI s.cfg.irqLine]).setResult .deviceError .none)) ∧
    (statusFailed (s.nextByte 0) = false → s.tag = .none →
      exec .onInterrupt s = .next ((s.ranIo 1 [entry, .sendEOI s.cfg.irqLine]).setResult .protocolViolation .none)) ∧
    (statusFailed (s.nextByte 0) = false →
      s.tag ∈ [.softReset, .flushCache, .setMultiple] ∨ (s.tag.isData = true ∧ s.remaining = 0#32) →
      let u := s.ranIo (w + 2) (entry :: s.altReads 1 (w + 1) ++ [.sendEOI s.cfg.irqLine])
      exec .onInterrupt s =
        .next ((if statusIdle (s.nextByte (w + 1)) then u.endCommand else u).setResult .ok .none)) ∧
    (statusFailed (s.nextByte 0) = false → s.tag.isData = true → s.remaining ≠ 0#32 →
      let u := s.ranIo 2 [entry, s.altRead 1, .sendEOI s.cfg.irqLine]
      (statusBsy (s.nextByte 1) = true → exec .onInterrupt s = .next (u.setResult .busyRetry .none)) ∧
      (statusBsy (s.nextByte 1) = false → statusDrq (s.nextByte 1) = false →
        exec .onInterrupt s = .next (u.endCommand.setResult
          (if statusFailed (s.nextByte 1) then .deviceError else .protocolViolation) .none)) ∧
      (∀ j, statusBsy (s.nextByte 1) = false → statusDrq (s.nextByte 1) = true → j < unitWords s →
        s.admitsRange s.cursorPtr.toNat (2 * j) →
        (s.admits (s.cursorPtr.toNat + 2 * j) && s.admits (s.cursorPtr.toNat + 2 * j + 1)) = false →
        exec .onInterrupt s = .fault (.callerMemoryNotAdmitted (s.cursorPtr.toNat + 2 * j))))

/-- 43_interrupt_dispatcher.md R282: every interrupt ends with exactly one `SendEOI(IRQ_LINE)`, after every other event,
and (R280) begins with the Status read. -/
def Obligations.OnInterruptEndsWithEoi : Prop :=
  ∀ s t : State, exec .onInterrupt s = .next t →
    ∃ evs, AddsEvents s t (.portRead8 (portAddr s.cfg .status) (s.nextByte 0) :: evs ++ [.sendEOI s.cfg.irqLine]) ∧
      ∀ e ∈ evs, ∀ l, e ≠ .sendEOI l

/-- 41_identify.md R193: an interrupt runs the identify data phase; a failed parse leaves the tag. -/
def Obligations.OnInterruptIdentify : Prop :=
  ∀ s : State, s.tag = .identify → statusFailed (s.nextByte 0) = false →
    let w := s.cfg.wait400Reads
    let entry := [Event.portRead8 (portAddr s.cfg .status) (s.nextByte 0), s.altRead 1]
    let buf := identBufOf (s.nextWords 2 256)
    (statusBsy (s.nextByte 1) = true →
      exec .onInterrupt s =
        .next ((s.ranIo 2 (entry ++ [.sendEOI s.cfg.irqLine])).setResult .busyRetry .none)) ∧
    (statusBsy (s.nextByte 1) = false → statusDrq (s.nextByte 1) = false →
      exec .onInterrupt s = .next (((s.ranIo 2 (entry ++ [.sendEOI s.cfg.irqLine])).endCommand).setResult
        (if statusFailed (s.nextByte 1) then .deviceError else .protocolViolation) .none)) ∧
    (statusBsy (s.nextByte 1) = false → statusDrq (s.nextByte 1) = true → parseIdentify buf = none →
      exec .onInterrupt s = .next ((((s.ranIo 258 (entry ++ s.dataReads 2 256 ++
        [.sendEOI s.cfg.irqLine])).setIdentBuf buf).setIdentified false).setResult .capabilityAbsent .none)) ∧
    (∀ f, statusBsy (s.nextByte 1) = false → statusDrq (s.nextByte 1) = true → parseIdentify buf = some f →
      let u := ((s.ranIo (w + 259) (entry ++ s.dataReads 2 256 ++ s.altReads 258 (w + 1) ++
        [.sendEOI s.cfg.irqLine])).setIdentBuf buf).commit f
      exec .onInterrupt s =
        .next ((if statusIdle (s.nextByte (w + 258)) then u.endCommand else u).setResult .ok .none))

/-! ## Bring-up -/

/-- 44_bringup_api.md R310 to R313: `initialize` against a device that answers each step: the block is identified, in
polled mode, with the drive and the clamped block size recorded and no command active. Where bit 4 of the Drive/Head
read-back differs from `DRIVE_INDEX` (R312), it answers `PROTOCOL_VIOLATION` after that read and drains nothing. -/
def Obligations.InitializeCompletes : Prop :=
  ∀ (s : State) (p₁ p₂ p q : Nat) (f : Descriptor) (n : Nat),
    let w := s.cfg.wait400Reads
    let k₁ := w + p₁ + 3
    let k₂ := k₁ + w + p₂ + 3
    let k₃ := k₂ + 2 * w + p + q + 262
    let m : Byte := if s.cfg.multipleRequest.toNat ≤ f.maxMultipleSectorSize.toNat then s.cfg.multipleRequest
      else f.maxMultipleSectorSize
    let start := s.resetEvents 0 p₁ ++ [.portWrite8 (portAddr s.cfg .devCtl) 0x02#8] ++
      s.selectEvents s.cfg.driveIndex k₁ p₂ ++ s.identifyEvents k₂ p q
    let readBack := fun (k : Nat) => Event.portRead8 (portAddr s.cfg .drvHead) (s.nextByte k)
    let left := fun (reads : Nat) (evs : List Event) (size : Byte) (code : ResultCode) =>
      ((((((s.ranIo reads evs).setIntEnabled false).setSelectedDrive s.cfg.driveIndex).setIdentBuf
        (s.identifyWords k₂ p)).commit f).setCurrentMultiple size).endCommand.setResult code .none
    let ends := fun (k : Nat) (evs : List Event) (size : Byte) =>
      ((s.nextByte k).getLsbD 4 = s.cfg.driveIndex.getLsbD 0 → s.drainMeets (k + 1) n →
        exec .initializeBlock s = .next (left (k + 1 + s.drainCount n)
          (evs ++ readBack k :: s.drainEvents (k + 1) n) size .ok)) ∧
      ((s.nextByte k).getLsbD 4 ≠ s.cfg.driveIndex.getLsbD 0 →
        exec .initializeBlock s = .next (left (k + 1) (evs ++ [readBack k]) size .protocolViolation))
    s.resetMeets 0 p₁ → s.selectMeets k₁ p₂ → s.identifyMeets k₂ p q → statusFailed (s.nextByte (k₃ - 1)) = false →
    parseIdentify (s.identifyWords k₂ p) = some f →
    (f.hasMultipleCmd = false → ends k₃ start 0#8) ∧
    ∀ a b c e, f.hasMultipleCmd = true → s.cfg.multipleRequest ≠ 0#8 → s.multipleMeets k₃ a b c e →
      let k₄ := k₃ + a + b + c + w + e + 6
      statusFailed (s.nextByte (k₄ - 1)) = false → ends k₄ (start ++ s.multipleEvents m k₃ a b c e) m

/-- 44_bringup_api.md R310: `initialize` always answers and leaves the block in polled mode; where it answers `OK` the block
is identified on the wanted drive, with no command active, and has read back a Drive/Head byte whose bit 4 is that drive
(R312). -/
def Obligations.InitializeLeavesPolledMode : Prop :=
  ∀ s : State, ∃ t r, exec .initializeBlock s = .next t ∧ t.result = some r ∧ t.intEnabled = false ∧ t.mem = s.mem ∧
    (r.code = .ok → t.identified = true ∧ t.tag = .none ∧ t.selectedDrive = s.cfg.driveIndex ∧
      (t.desc.hasMultipleCmd = false → t.desc.currentMultipleSectorSize = 0#8) ∧
      t.desc.currentMultipleSectorSize.toNat ≤ t.desc.maxMultipleSectorSize.toNat ∧
      ∃ evs v, AddsEvents s t evs ∧ .portRead8 (portAddr s.cfg .drvHead) v ∈ evs ∧
        v.getLsbD 4 = s.cfg.driveIndex.getLsbD 0)

/-- 44_bringup_api.md R313: the Status read, and the stale words up to the budget; nothing else changes. -/
def Obligations.DrainDiscardsStaleWords : Prop :=
  ∀ (s : State) (n : Nat), s.drainMeets 0 n → drain s = s.ranIo (s.drainCount n) (s.drainEvents 0 n)

/-- 44_bringup_api.md R314. -/
def Obligations.SetInterruptModeRule : Prop :=
  ∀ (e : Bool) (s : State),
    (s.tag ≠ .none → exec (.setInterruptMode e) s = .next (s.setResult .protocolViolation .none)) ∧
    (s.tag = .none → exec (.setInterruptMode e) s = .next (((s.ranIo 0
      [.portWrite8 (portAddr s.cfg .devCtl) (if e then 0x00#8 else 0x02#8),
       if e then .unmaskLine s.cfg.irqLine else .maskLine s.cfg.irqLine]).setIntEnabled e).setResult .ok .none))

end
end

