-- ==== Sys2Proof/Laws/State.lean ====
section
/-! SUPPORT. The small lemmas of the record updates: one per field per update, each true by unfolding the update once. -/

/-- An IDENTIFY answer has 256 words (00_scope.md R7). -/
@[simp] theorem Sys2Proof.IdentWords.count_eq (w : Sys2Proof.IdentWords) : w.count = 256 := by cases w; rfl

namespace Sys2Proof.Machine

/-! `State.emit` -/

@[simp] theorem State.emit_cfg (s : State) (e : Event) : (s.emit e).cfg = s.cfg := rfl
@[simp] theorem State.emit_desc (s : State) (e : Event) : (s.emit e).desc = s.desc := rfl
@[simp] theorem State.emit_identified (s : State) (e : Event) : (s.emit e).identified = s.identified := rfl
@[simp] theorem State.emit_intEnabled (s : State) (e : Event) : (s.emit e).intEnabled = s.intEnabled := rfl
@[simp] theorem State.emit_selectedDrive (s : State) (e : Event) : (s.emit e).selectedDrive = s.selectedDrive := rfl
@[simp] theorem State.emit_tag (s : State) (e : Event) : (s.emit e).tag = s.tag := rfl
@[simp] theorem State.emit_cursorPtr (s : State) (e : Event) : (s.emit e).cursorPtr = s.cursorPtr := rfl
@[simp] theorem State.emit_remaining (s : State) (e : Event) : (s.emit e).remaining = s.remaining := rfl
@[simp] theorem State.emit_identBuf (s : State) (e : Event) : (s.emit e).identBuf = s.identBuf := rfl
@[simp] theorem State.emit_mem (s : State) (e : Event) : (s.emit e).mem = s.mem := rfl
@[simp] theorem State.emit_holes (s : State) (e : Event) : (s.emit e).holes = s.holes := rfl
@[simp] theorem State.emit_requests (s : State) (e : Event) : (s.emit e).requests = s.requests := rfl
@[simp] theorem State.emit_script (s : State) (e : Event) : (s.emit e).script = s.script := rfl
@[simp] theorem State.emit_draws (s : State) (e : Event) : (s.emit e).draws = s.draws := rfl
@[simp] theorem State.emit_trace (s : State) (e : Event) : (s.emit e).trace = e :: s.trace := rfl
@[simp] theorem State.emit_result (s : State) (e : Event) : (s.emit e).result = s.result := rfl

/-! `State.answered` -/

@[simp] theorem State.answered_cfg (s : State) : (s.answered).cfg = s.cfg := rfl
@[simp] theorem State.answered_desc (s : State) : (s.answered).desc = s.desc := rfl
@[simp] theorem State.answered_identified (s : State) : (s.answered).identified = s.identified := rfl
@[simp] theorem State.answered_intEnabled (s : State) : (s.answered).intEnabled = s.intEnabled := rfl
@[simp] theorem State.answered_selectedDrive (s : State) : (s.answered).selectedDrive = s.selectedDrive := rfl
@[simp] theorem State.answered_tag (s : State) : (s.answered).tag = s.tag := rfl
@[simp] theorem State.answered_cursorPtr (s : State) : (s.answered).cursorPtr = s.cursorPtr := rfl
@[simp] theorem State.answered_remaining (s : State) : (s.answered).remaining = s.remaining := rfl
@[simp] theorem State.answered_identBuf (s : State) : (s.answered).identBuf = s.identBuf := rfl
@[simp] theorem State.answered_mem (s : State) : (s.answered).mem = s.mem := rfl
@[simp] theorem State.answered_holes (s : State) : (s.answered).holes = s.holes := rfl
@[simp] theorem State.answered_requests (s : State) : (s.answered).requests = s.requests := rfl
@[simp] theorem State.answered_script (s : State) : (s.answered).script = s.script.tail := rfl
@[simp] theorem State.answered_draws (s : State) : (s.answered).draws = s.draws + 1 := rfl
@[simp] theorem State.answered_trace (s : State) : (s.answered).trace = s.trace := rfl
@[simp] theorem State.answered_result (s : State) : (s.answered).result = s.result := rfl

/-! `State.setTag` -/

@[simp] theorem State.setTag_cfg (s : State) (t : Tag) : (s.setTag t).cfg = s.cfg := rfl
@[simp] theorem State.setTag_desc (s : State) (t : Tag) : (s.setTag t).desc = s.desc := rfl
@[simp] theorem State.setTag_identified (s : State) (t : Tag) : (s.setTag t).identified = s.identified := rfl
@[simp] theorem State.setTag_intEnabled (s : State) (t : Tag) : (s.setTag t).intEnabled = s.intEnabled := rfl
@[simp] theorem State.setTag_selectedDrive (s : State) (t : Tag) : (s.setTag t).selectedDrive = s.selectedDrive := rfl
@[simp] theorem State.setTag_tag (s : State) (t : Tag) : (s.setTag t).tag = t := rfl
@[simp] theorem State.setTag_cursorPtr (s : State) (t : Tag) : (s.setTag t).cursorPtr = s.cursorPtr := rfl
@[simp] theorem State.setTag_remaining (s : State) (t : Tag) : (s.setTag t).remaining = s.remaining := rfl
@[simp] theorem State.setTag_identBuf (s : State) (t : Tag) : (s.setTag t).identBuf = s.identBuf := rfl
@[simp] theorem State.setTag_mem (s : State) (t : Tag) : (s.setTag t).mem = s.mem := rfl
@[simp] theorem State.setTag_holes (s : State) (t : Tag) : (s.setTag t).holes = s.holes := rfl
@[simp] theorem State.setTag_requests (s : State) (t : Tag) : (s.setTag t).requests = s.requests := rfl
@[simp] theorem State.setTag_script (s : State) (t : Tag) : (s.setTag t).script = s.script := rfl
@[simp] theorem State.setTag_draws (s : State) (t : Tag) : (s.setTag t).draws = s.draws := rfl
@[simp] theorem State.setTag_trace (s : State) (t : Tag) : (s.setTag t).trace = s.trace := rfl
@[simp] theorem State.setTag_result (s : State) (t : Tag) : (s.setTag t).result = s.result := rfl

/-! `State.setCursor` -/

@[simp] theorem State.setCursor_cfg (s : State) (p : Addr) (n : DWord) : (s.setCursor p n).cfg = s.cfg := rfl
@[simp] theorem State.setCursor_desc (s : State) (p : Addr) (n : DWord) : (s.setCursor p n).desc = s.desc := rfl
@[simp] theorem State.setCursor_identified (s : State) (p : Addr) (n : DWord) : (s.setCursor p n).identified = s.identified := rfl
@[simp] theorem State.setCursor_intEnabled (s : State) (p : Addr) (n : DWord) : (s.setCursor p n).intEnabled = s.intEnabled := rfl
@[simp] theorem State.setCursor_selectedDrive (s : State) (p : Addr) (n : DWord) : (s.setCursor p n).selectedDrive = s.selectedDrive := rfl
@[simp] theorem State.setCursor_tag (s : State) (p : Addr) (n : DWord) : (s.setCursor p n).tag = s.tag := rfl
@[simp] theorem State.setCursor_cursorPtr (s : State) (p : Addr) (n : DWord) : (s.setCursor p n).cursorPtr = p := rfl
@[simp] theorem State.setCursor_remaining (s : State) (p : Addr) (n : DWord) : (s.setCursor p n).remaining = n := rfl
@[simp] theorem State.setCursor_identBuf (s : State) (p : Addr) (n : DWord) : (s.setCursor p n).identBuf = s.identBuf := rfl
@[simp] theorem State.setCursor_mem (s : State) (p : Addr) (n : DWord) : (s.setCursor p n).mem = s.mem := rfl
@[simp] theorem State.setCursor_holes (s : State) (p : Addr) (n : DWord) : (s.setCursor p n).holes = s.holes := rfl
@[simp] theorem State.setCursor_requests (s : State) (p : Addr) (n : DWord) : (s.setCursor p n).requests = s.requests := rfl
@[simp] theorem State.setCursor_script (s : State) (p : Addr) (n : DWord) : (s.setCursor p n).script = s.script := rfl
@[simp] theorem State.setCursor_draws (s : State) (p : Addr) (n : DWord) : (s.setCursor p n).draws = s.draws := rfl
@[simp] theorem State.setCursor_trace (s : State) (p : Addr) (n : DWord) : (s.setCursor p n).trace = s.trace := rfl
@[simp] theorem State.setCursor_result (s : State) (p : Addr) (n : DWord) : (s.setCursor p n).result = s.result := rfl

/-! `State.clearCursor` -/

@[simp] theorem State.clearCursor_cfg (s : State) : (s.clearCursor).cfg = s.cfg := rfl
@[simp] theorem State.clearCursor_desc (s : State) : (s.clearCursor).desc = s.desc := rfl
@[simp] theorem State.clearCursor_identified (s : State) : (s.clearCursor).identified = s.identified := rfl
@[simp] theorem State.clearCursor_intEnabled (s : State) : (s.clearCursor).intEnabled = s.intEnabled := rfl
@[simp] theorem State.clearCursor_selectedDrive (s : State) : (s.clearCursor).selectedDrive = s.selectedDrive := rfl
@[simp] theorem State.clearCursor_tag (s : State) : (s.clearCursor).tag = s.tag := rfl
@[simp] theorem State.clearCursor_cursorPtr (s : State) : (s.clearCursor).cursorPtr = 0#64 := rfl
@[simp] theorem State.clearCursor_remaining (s : State) : (s.clearCursor).remaining = 0#32 := rfl
@[simp] theorem State.clearCursor_identBuf (s : State) : (s.clearCursor).identBuf = s.identBuf := rfl
@[simp] theorem State.clearCursor_mem (s : State) : (s.clearCursor).mem = s.mem := rfl
@[simp] theorem State.clearCursor_holes (s : State) : (s.clearCursor).holes = s.holes := rfl
@[simp] theorem State.clearCursor_requests (s : State) : (s.clearCursor).requests = s.requests := rfl
@[simp] theorem State.clearCursor_script (s : State) : (s.clearCursor).script = s.script := rfl
@[simp] theorem State.clearCursor_draws (s : State) : (s.clearCursor).draws = s.draws := rfl
@[simp] theorem State.clearCursor_trace (s : State) : (s.clearCursor).trace = s.trace := rfl
@[simp] theorem State.clearCursor_result (s : State) : (s.clearCursor).result = s.result := rfl

/-! `State.endCommand` -/

@[simp] theorem State.endCommand_cfg (s : State) : (s.endCommand).cfg = s.cfg := rfl
@[simp] theorem State.endCommand_desc (s : State) : (s.endCommand).desc = s.desc := rfl
@[simp] theorem State.endCommand_identified (s : State) : (s.endCommand).identified = s.identified := rfl
@[simp] theorem State.endCommand_intEnabled (s : State) : (s.endCommand).intEnabled = s.intEnabled := rfl
@[simp] theorem State.endCommand_selectedDrive (s : State) : (s.endCommand).selectedDrive = s.selectedDrive := rfl
@[simp] theorem State.endCommand_tag (s : State) : (s.endCommand).tag = .none := rfl
@[simp] theorem State.endCommand_cursorPtr (s : State) : (s.endCommand).cursorPtr = 0#64 := rfl
@[simp] theorem State.endCommand_remaining (s : State) : (s.endCommand).remaining = 0#32 := rfl
@[simp] theorem State.endCommand_identBuf (s : State) : (s.endCommand).identBuf = s.identBuf := rfl
@[simp] theorem State.endCommand_mem (s : State) : (s.endCommand).mem = s.mem := rfl
@[simp] theorem State.endCommand_holes (s : State) : (s.endCommand).holes = s.holes := rfl
@[simp] theorem State.endCommand_requests (s : State) : (s.endCommand).requests = s.requests := rfl
@[simp] theorem State.endCommand_script (s : State) : (s.endCommand).script = s.script := rfl
@[simp] theorem State.endCommand_draws (s : State) : (s.endCommand).draws = s.draws := rfl
@[simp] theorem State.endCommand_trace (s : State) : (s.endCommand).trace = s.trace := rfl
@[simp] theorem State.endCommand_result (s : State) : (s.endCommand).result = s.result := rfl

/-! `State.setIntEnabled` -/

@[simp] theorem State.setIntEnabled_cfg (s : State) (e : Bool) : (s.setIntEnabled e).cfg = s.cfg := rfl
@[simp] theorem State.setIntEnabled_desc (s : State) (e : Bool) : (s.setIntEnabled e).desc = s.desc := rfl
@[simp] theorem State.setIntEnabled_identified (s : State) (e : Bool) : (s.setIntEnabled e).identified = s.identified := rfl
@[simp] theorem State.setIntEnabled_intEnabled (s : State) (e : Bool) : (s.setIntEnabled e).intEnabled = e := rfl
@[simp] theorem State.setIntEnabled_selectedDrive (s : State) (e : Bool) : (s.setIntEnabled e).selectedDrive = s.selectedDrive := rfl
@[simp] theorem State.setIntEnabled_tag (s : State) (e : Bool) : (s.setIntEnabled e).tag = s.tag := rfl
@[simp] theorem State.setIntEnabled_cursorPtr (s : State) (e : Bool) : (s.setIntEnabled e).cursorPtr = s.cursorPtr := rfl
@[simp] theorem State.setIntEnabled_remaining (s : State) (e : Bool) : (s.setIntEnabled e).remaining = s.remaining := rfl
@[simp] theorem State.setIntEnabled_identBuf (s : State) (e : Bool) : (s.setIntEnabled e).identBuf = s.identBuf := rfl
@[simp] theorem State.setIntEnabled_mem (s : State) (e : Bool) : (s.setIntEnabled e).mem = s.mem := rfl
@[simp] theorem State.setIntEnabled_holes (s : State) (e : Bool) : (s.setIntEnabled e).holes = s.holes := rfl
@[simp] theorem State.setIntEnabled_requests (s : State) (e : Bool) : (s.setIntEnabled e).requests = s.requests := rfl
@[simp] theorem State.setIntEnabled_script (s : State) (e : Bool) : (s.setIntEnabled e).script = s.script := rfl
@[simp] theorem State.setIntEnabled_draws (s : State) (e : Bool) : (s.setIntEnabled e).draws = s.draws := rfl
@[simp] theorem State.setIntEnabled_trace (s : State) (e : Bool) : (s.setIntEnabled e).trace = s.trace := rfl
@[simp] theorem State.setIntEnabled_result (s : State) (e : Bool) : (s.setIntEnabled e).result = s.result := rfl

/-! `State.setIdentified` -/

@[simp] theorem State.setIdentified_cfg (s : State) (b : Bool) : (s.setIdentified b).cfg = s.cfg := rfl
@[simp] theorem State.setIdentified_desc (s : State) (b : Bool) : (s.setIdentified b).desc = s.desc := rfl
@[simp] theorem State.setIdentified_identified (s : State) (b : Bool) : (s.setIdentified b).identified = b := rfl
@[simp] theorem State.setIdentified_intEnabled (s : State) (b : Bool) : (s.setIdentified b).intEnabled = s.intEnabled := rfl
@[simp] theorem State.setIdentified_selectedDrive (s : State) (b : Bool) : (s.setIdentified b).selectedDrive = s.selectedDrive := rfl
@[simp] theorem State.setIdentified_tag (s : State) (b : Bool) : (s.setIdentified b).tag = s.tag := rfl
@[simp] theorem State.setIdentified_cursorPtr (s : State) (b : Bool) : (s.setIdentified b).cursorPtr = s.cursorPtr := rfl
@[simp] theorem State.setIdentified_remaining (s : State) (b : Bool) : (s.setIdentified b).remaining = s.remaining := rfl
@[simp] theorem State.setIdentified_identBuf (s : State) (b : Bool) : (s.setIdentified b).identBuf = s.identBuf := rfl
@[simp] theorem State.setIdentified_mem (s : State) (b : Bool) : (s.setIdentified b).mem = s.mem := rfl
@[simp] theorem State.setIdentified_holes (s : State) (b : Bool) : (s.setIdentified b).holes = s.holes := rfl
@[simp] theorem State.setIdentified_requests (s : State) (b : Bool) : (s.setIdentified b).requests = s.requests := rfl
@[simp] theorem State.setIdentified_script (s : State) (b : Bool) : (s.setIdentified b).script = s.script := rfl
@[simp] theorem State.setIdentified_draws (s : State) (b : Bool) : (s.setIdentified b).draws = s.draws := rfl
@[simp] theorem State.setIdentified_trace (s : State) (b : Bool) : (s.setIdentified b).trace = s.trace := rfl
@[simp] theorem State.setIdentified_result (s : State) (b : Bool) : (s.setIdentified b).result = s.result := rfl

/-! `State.setSelectedDrive` -/

@[simp] theorem State.setSelectedDrive_cfg (s : State) (v : BitVec 1) : (s.setSelectedDrive v).cfg = s.cfg := rfl
@[simp] theorem State.setSelectedDrive_desc (s : State) (v : BitVec 1) : (s.setSelectedDrive v).desc = s.desc := rfl
@[simp] theorem State.setSelectedDrive_identified (s : State) (v : BitVec 1) : (s.setSelectedDrive v).identified = s.identified := rfl
@[simp] theorem State.setSelectedDrive_intEnabled (s : State) (v : BitVec 1) : (s.setSelectedDrive v).intEnabled = s.intEnabled := rfl
@[simp] theorem State.setSelectedDrive_selectedDrive (s : State) (v : BitVec 1) : (s.setSelectedDrive v).selectedDrive = v := rfl
@[simp] theorem State.setSelectedDrive_tag (s : State) (v : BitVec 1) : (s.setSelectedDrive v).tag = s.tag := rfl
@[simp] theorem State.setSelectedDrive_cursorPtr (s : State) (v : BitVec 1) : (s.setSelectedDrive v).cursorPtr = s.cursorPtr := rfl
@[simp] theorem State.setSelectedDrive_remaining (s : State) (v : BitVec 1) : (s.setSelectedDrive v).remaining = s.remaining := rfl
@[simp] theorem State.setSelectedDrive_identBuf (s : State) (v : BitVec 1) : (s.setSelectedDrive v).identBuf = s.identBuf := rfl
@[simp] theorem State.setSelectedDrive_mem (s : State) (v : BitVec 1) : (s.setSelectedDrive v).mem = s.mem := rfl
@[simp] theorem State.setSelectedDrive_holes (s : State) (v : BitVec 1) : (s.setSelectedDrive v).holes = s.holes := rfl
@[simp] theorem State.setSelectedDrive_requests (s : State) (v : BitVec 1) : (s.setSelectedDrive v).requests = s.requests := rfl
@[simp] theorem State.setSelectedDrive_script (s : State) (v : BitVec 1) : (s.setSelectedDrive v).script = s.script := rfl
@[simp] theorem State.setSelectedDrive_draws (s : State) (v : BitVec 1) : (s.setSelectedDrive v).draws = s.draws := rfl
@[simp] theorem State.setSelectedDrive_trace (s : State) (v : BitVec 1) : (s.setSelectedDrive v).trace = s.trace := rfl
@[simp] theorem State.setSelectedDrive_result (s : State) (v : BitVec 1) : (s.setSelectedDrive v).result = s.result := rfl

/-! `State.setCurrentMultiple` -/

@[simp] theorem State.setCurrentMultiple_cfg (s : State) (m : Byte) : (s.setCurrentMultiple m).cfg = s.cfg := rfl
@[simp] theorem State.setCurrentMultiple_desc (s : State) (m : Byte) : (s.setCurrentMultiple m).desc = { s.desc with currentMultipleSectorSize := m } := rfl
@[simp] theorem State.setCurrentMultiple_identified (s : State) (m : Byte) : (s.setCurrentMultiple m).identified = s.identified := rfl
@[simp] theorem State.setCurrentMultiple_intEnabled (s : State) (m : Byte) : (s.setCurrentMultiple m).intEnabled = s.intEnabled := rfl
@[simp] theorem State.setCurrentMultiple_selectedDrive (s : State) (m : Byte) : (s.setCurrentMultiple m).selectedDrive = s.selectedDrive := rfl
@[simp] theorem State.setCurrentMultiple_tag (s : State) (m : Byte) : (s.setCurrentMultiple m).tag = s.tag := rfl
@[simp] theorem State.setCurrentMultiple_cursorPtr (s : State) (m : Byte) : (s.setCurrentMultiple m).cursorPtr = s.cursorPtr := rfl
@[simp] theorem State.setCurrentMultiple_remaining (s : State) (m : Byte) : (s.setCurrentMultiple m).remaining = s.remaining := rfl
@[simp] theorem State.setCurrentMultiple_identBuf (s : State) (m : Byte) : (s.setCurrentMultiple m).identBuf = s.identBuf := rfl
@[simp] theorem State.setCurrentMultiple_mem (s : State) (m : Byte) : (s.setCurrentMultiple m).mem = s.mem := rfl
@[simp] theorem State.setCurrentMultiple_holes (s : State) (m : Byte) : (s.setCurrentMultiple m).holes = s.holes := rfl
@[simp] theorem State.setCurrentMultiple_requests (s : State) (m : Byte) : (s.setCurrentMultiple m).requests = s.requests := rfl
@[simp] theorem State.setCurrentMultiple_script (s : State) (m : Byte) : (s.setCurrentMultiple m).script = s.script := rfl
@[simp] theorem State.setCurrentMultiple_draws (s : State) (m : Byte) : (s.setCurrentMultiple m).draws = s.draws := rfl
@[simp] theorem State.setCurrentMultiple_trace (s : State) (m : Byte) : (s.setCurrentMultiple m).trace = s.trace := rfl
@[simp] theorem State.setCurrentMultiple_result (s : State) (m : Byte) : (s.setCurrentMultiple m).result = s.result := rfl

/-! `State.commit` -/

@[simp] theorem State.commit_cfg (s : State) (f : Descriptor) : (s.commit f).cfg = s.cfg := rfl
@[simp] theorem State.commit_desc (s : State) (f : Descriptor) : (s.commit f).desc = f := rfl
@[simp] theorem State.commit_identified (s : State) (f : Descriptor) : (s.commit f).identified = true := rfl
@[simp] theorem State.commit_intEnabled (s : State) (f : Descriptor) : (s.commit f).intEnabled = s.intEnabled := rfl
@[simp] theorem State.commit_selectedDrive (s : State) (f : Descriptor) : (s.commit f).selectedDrive = s.selectedDrive := rfl
@[simp] theorem State.commit_tag (s : State) (f : Descriptor) : (s.commit f).tag = s.tag := rfl
@[simp] theorem State.commit_cursorPtr (s : State) (f : Descriptor) : (s.commit f).cursorPtr = s.cursorPtr := rfl
@[simp] theorem State.commit_remaining (s : State) (f : Descriptor) : (s.commit f).remaining = s.remaining := rfl
@[simp] theorem State.commit_identBuf (s : State) (f : Descriptor) : (s.commit f).identBuf = s.identBuf := rfl
@[simp] theorem State.commit_mem (s : State) (f : Descriptor) : (s.commit f).mem = s.mem := rfl
@[simp] theorem State.commit_holes (s : State) (f : Descriptor) : (s.commit f).holes = s.holes := rfl
@[simp] theorem State.commit_requests (s : State) (f : Descriptor) : (s.commit f).requests = s.requests := rfl
@[simp] theorem State.commit_script (s : State) (f : Descriptor) : (s.commit f).script = s.script := rfl
@[simp] theorem State.commit_draws (s : State) (f : Descriptor) : (s.commit f).draws = s.draws := rfl
@[simp] theorem State.commit_trace (s : State) (f : Descriptor) : (s.commit f).trace = s.trace := rfl
@[simp] theorem State.commit_result (s : State) (f : Descriptor) : (s.commit f).result = s.result := rfl

/-! `State.setIdentBuf` -/

@[simp] theorem State.setIdentBuf_cfg (s : State) (w : IdentBuf) : (s.setIdentBuf w).cfg = s.cfg := rfl
@[simp] theorem State.setIdentBuf_desc (s : State) (w : IdentBuf) : (s.setIdentBuf w).desc = s.desc := rfl
@[simp] theorem State.setIdentBuf_identified (s : State) (w : IdentBuf) : (s.setIdentBuf w).identified = s.identified := rfl
@[simp] theorem State.setIdentBuf_intEnabled (s : State) (w : IdentBuf) : (s.setIdentBuf w).intEnabled = s.intEnabled := rfl
@[simp] theorem State.setIdentBuf_selectedDrive (s : State) (w : IdentBuf) : (s.setIdentBuf w).selectedDrive = s.selectedDrive := rfl
@[simp] theorem State.setIdentBuf_tag (s : State) (w : IdentBuf) : (s.setIdentBuf w).tag = s.tag := rfl
@[simp] theorem State.setIdentBuf_cursorPtr (s : State) (w : IdentBuf) : (s.setIdentBuf w).cursorPtr = s.cursorPtr := rfl
@[simp] theorem State.setIdentBuf_remaining (s : State) (w : IdentBuf) : (s.setIdentBuf w).remaining = s.remaining := rfl
@[simp] theorem State.setIdentBuf_identBuf (s : State) (w : IdentBuf) : (s.setIdentBuf w).identBuf = w := rfl
@[simp] theorem State.setIdentBuf_mem (s : State) (w : IdentBuf) : (s.setIdentBuf w).mem = s.mem := rfl
@[simp] theorem State.setIdentBuf_holes (s : State) (w : IdentBuf) : (s.setIdentBuf w).holes = s.holes := rfl
@[simp] theorem State.setIdentBuf_requests (s : State) (w : IdentBuf) : (s.setIdentBuf w).requests = s.requests := rfl
@[simp] theorem State.setIdentBuf_script (s : State) (w : IdentBuf) : (s.setIdentBuf w).script = s.script := rfl
@[simp] theorem State.setIdentBuf_draws (s : State) (w : IdentBuf) : (s.setIdentBuf w).draws = s.draws := rfl
@[simp] theorem State.setIdentBuf_trace (s : State) (w : IdentBuf) : (s.setIdentBuf w).trace = s.trace := rfl
@[simp] theorem State.setIdentBuf_result (s : State) (w : IdentBuf) : (s.setIdentBuf w).result = s.result := rfl

/-! `State.setResult` -/

@[simp] theorem State.setResult_cfg (s : State) (c : ResultCode) (v : ResultValue) : (s.setResult c v).cfg = s.cfg := rfl
@[simp] theorem State.setResult_desc (s : State) (c : ResultCode) (v : ResultValue) : (s.setResult c v).desc = s.desc := rfl
@[simp] theorem State.setResult_identified (s : State) (c : ResultCode) (v : ResultValue) : (s.setResult c v).identified = s.identified := rfl
@[simp] theorem State.setResult_intEnabled (s : State) (c : ResultCode) (v : ResultValue) : (s.setResult c v).intEnabled = s.intEnabled := rfl
@[simp] theorem State.setResult_selectedDrive (s : State) (c : ResultCode) (v : ResultValue) : (s.setResult c v).selectedDrive = s.selectedDrive := rfl
@[simp] theorem State.setResult_tag (s : State) (c : ResultCode) (v : ResultValue) : (s.setResult c v).tag = s.tag := rfl
@[simp] theorem State.setResult_cursorPtr (s : State) (c : ResultCode) (v : ResultValue) : (s.setResult c v).cursorPtr = s.cursorPtr := rfl
@[simp] theorem State.setResult_remaining (s : State) (c : ResultCode) (v : ResultValue) : (s.setResult c v).remaining = s.remaining := rfl
@[simp] theorem State.setResult_identBuf (s : State) (c : ResultCode) (v : ResultValue) : (s.setResult c v).identBuf = s.identBuf := rfl
@[simp] theorem State.setResult_mem (s : State) (c : ResultCode) (v : ResultValue) : (s.setResult c v).mem = s.mem := rfl
@[simp] theorem State.setResult_holes (s : State) (c : ResultCode) (v : ResultValue) : (s.setResult c v).holes = s.holes := rfl
@[simp] theorem State.setResult_requests (s : State) (c : ResultCode) (v : ResultValue) : (s.setResult c v).requests = s.requests := rfl
@[simp] theorem State.setResult_script (s : State) (c : ResultCode) (v : ResultValue) : (s.setResult c v).script = s.script := rfl
@[simp] theorem State.setResult_draws (s : State) (c : ResultCode) (v : ResultValue) : (s.setResult c v).draws = s.draws := rfl
@[simp] theorem State.setResult_trace (s : State) (c : ResultCode) (v : ResultValue) : (s.setResult c v).trace = s.trace := rfl
@[simp] theorem State.setResult_result (s : State) (c : ResultCode) (v : ResultValue) : (s.setResult c v).result = some ⟨c, v⟩ := rfl

/-! `State.takeRequest` -/

@[simp] theorem State.takeRequest_cfg (s : State) : (s.takeRequest).cfg = s.cfg := rfl
@[simp] theorem State.takeRequest_desc (s : State) : (s.takeRequest).desc = s.desc := rfl
@[simp] theorem State.takeRequest_identified (s : State) : (s.takeRequest).identified = s.identified := rfl
@[simp] theorem State.takeRequest_intEnabled (s : State) : (s.takeRequest).intEnabled = s.intEnabled := rfl
@[simp] theorem State.takeRequest_selectedDrive (s : State) : (s.takeRequest).selectedDrive = s.selectedDrive := rfl
@[simp] theorem State.takeRequest_tag (s : State) : (s.takeRequest).tag = s.tag := rfl
@[simp] theorem State.takeRequest_cursorPtr (s : State) : (s.takeRequest).cursorPtr = s.cursorPtr := rfl
@[simp] theorem State.takeRequest_remaining (s : State) : (s.takeRequest).remaining = s.remaining := rfl
@[simp] theorem State.takeRequest_identBuf (s : State) : (s.takeRequest).identBuf = s.identBuf := rfl
@[simp] theorem State.takeRequest_mem (s : State) : (s.takeRequest).mem = s.mem := rfl
@[simp] theorem State.takeRequest_holes (s : State) : (s.takeRequest).holes = s.holes := rfl
@[simp] theorem State.takeRequest_requests (s : State) : (s.takeRequest).requests = s.requests.tail := rfl
@[simp] theorem State.takeRequest_script (s : State) : (s.takeRequest).script = s.script := rfl
@[simp] theorem State.takeRequest_draws (s : State) : (s.takeRequest).draws = s.draws := rfl
@[simp] theorem State.takeRequest_trace (s : State) : (s.takeRequest).trace = s.trace := rfl
@[simp] theorem State.takeRequest_result (s : State) : (s.takeRequest).result = s.result := rfl

/-! `State.ranIo` -/

@[simp] theorem State.ranIo_cfg (s : State) (n : Nat) (evs : List Event) : (s.ranIo n evs).cfg = s.cfg := rfl
@[simp] theorem State.ranIo_desc (s : State) (n : Nat) (evs : List Event) : (s.ranIo n evs).desc = s.desc := rfl
@[simp] theorem State.ranIo_identified (s : State) (n : Nat) (evs : List Event) : (s.ranIo n evs).identified = s.identified := rfl
@[simp] theorem State.ranIo_intEnabled (s : State) (n : Nat) (evs : List Event) : (s.ranIo n evs).intEnabled = s.intEnabled := rfl
@[simp] theorem State.ranIo_selectedDrive (s : State) (n : Nat) (evs : List Event) : (s.ranIo n evs).selectedDrive = s.selectedDrive := rfl
@[simp] theorem State.ranIo_tag (s : State) (n : Nat) (evs : List Event) : (s.ranIo n evs).tag = s.tag := rfl
@[simp] theorem State.ranIo_cursorPtr (s : State) (n : Nat) (evs : List Event) : (s.ranIo n evs).cursorPtr = s.cursorPtr := rfl
@[simp] theorem State.ranIo_remaining (s : State) (n : Nat) (evs : List Event) : (s.ranIo n evs).remaining = s.remaining := rfl
@[simp] theorem State.ranIo_identBuf (s : State) (n : Nat) (evs : List Event) : (s.ranIo n evs).identBuf = s.identBuf := rfl
@[simp] theorem State.ranIo_mem (s : State) (n : Nat) (evs : List Event) : (s.ranIo n evs).mem = s.mem := rfl
@[simp] theorem State.ranIo_holes (s : State) (n : Nat) (evs : List Event) : (s.ranIo n evs).holes = s.holes := rfl
@[simp] theorem State.ranIo_requests (s : State) (n : Nat) (evs : List Event) : (s.ranIo n evs).requests = s.requests := rfl
@[simp] theorem State.ranIo_script (s : State) (n : Nat) (evs : List Event) : (s.ranIo n evs).script = s.script.drop n := rfl
@[simp] theorem State.ranIo_draws (s : State) (n : Nat) (evs : List Event) : (s.ranIo n evs).draws = s.draws + n := rfl
@[simp] theorem State.ranIo_trace (s : State) (n : Nat) (evs : List Event) : (s.ranIo n evs).trace = evs.reverse ++ s.trace := rfl
@[simp] theorem State.ranIo_result (s : State) (n : Nat) (evs : List Event) : (s.ranIo n evs).result = s.result := rfl

end Sys2Proof.Machine
end

