-- ==== Sys2Proof/Laws/Memory.lean ====
section
/-! SUPPORT. Caller memory: reading after writing, and the canonical form that every operation keeps. -/

namespace Sys2Proof.Machine

theorem Memory.risingFrom_mono {m : Memory} {lo lo' : Nat} (h : lo' ≤ lo) (hm : Memory.risingFrom lo m = true) :
    Memory.risingFrom lo' m = true := by
  cases m with
  | nil => rfl
  | cons c rest =>
    simp only [Memory.risingFrom, Bool.and_eq_true, decide_eq_true_eq] at hm ⊢
    exact ⟨⟨by omega, hm.1.2⟩, hm.2⟩

/-- An address below every listed one reads as an unlisted one. -/
theorem Memory.read_below {m : Memory} {lo a : Nat} (hm : Memory.risingFrom lo m = true) (ha : a < lo) :
    Memory.read m a = Memory.unlisted := by
  induction m generalizing lo with
  | nil => rfl
  | cons c rest ih =>
    simp only [Memory.risingFrom, Bool.and_eq_true, decide_eq_true_eq] at hm
    have hne : ¬ a = c.1 := by omega
    simp only [Memory.read, hne, if_false]
    exact ih hm.2 (by omega)

theorem Memory.write_rising {m : Memory} {lo a : Nat} (b : Byte) (hm : Memory.risingFrom lo m = true) (ha : lo ≤ a) :
    Memory.risingFrom lo (Memory.write m a b) = true := by
  induction m generalizing lo with
  | nil => by_cases hb : b = Memory.unlisted <;> simp [Memory.write, Memory.risingFrom, hb, ha]
  | cons c rest ih =>
    have hm' := hm
    simp only [Memory.risingFrom, Bool.and_eq_true, decide_eq_true_eq] at hm'
    obtain ⟨⟨hlo, hv⟩, hrest⟩ := hm'
    by_cases hlt : a < c.1
    · by_cases hb : b = Memory.unlisted
      · simpa [Memory.write, hlt, hb] using hm
      · simp [Memory.write, Memory.risingFrom, hlt, hb, ha, hv, hrest]
    · by_cases heq : a = c.1
      · by_cases hb : b = Memory.unlisted
        · simpa [Memory.write, hlt, heq, hb] using Memory.risingFrom_mono (by omega) hrest
        · simp [Memory.write, Memory.risingFrom, heq, hb, hlo, hrest]
      · simp [Memory.write, Memory.risingFrom, hlt, heq, hlo, hv, ih hrest (by omega)]

/-- Every write keeps the canonical form. -/
theorem Memory.wf_write {m : Memory} (a : Nat) (b : Byte) (hm : Memory.wf m = true) :
    Memory.wf (Memory.write m a b) = true :=
  Memory.write_rising b hm (Nat.zero_le a)

theorem Memory.read_write_rising {m : Memory} {lo : Nat} (a x : Nat) (b : Byte) (hm : Memory.risingFrom lo m = true) :
    Memory.read (Memory.write m a b) x = if x = a then b else Memory.read m x := by
  induction m generalizing lo with
  | nil => by_cases hb : b = Memory.unlisted <;> simp [Memory.write, Memory.read, hb]
  | cons c rest ih =>
    have hm' := hm
    simp only [Memory.risingFrom, Bool.and_eq_true, decide_eq_true_eq] at hm'
    obtain ⟨⟨_, _⟩, hrest⟩ := hm'
    by_cases hlt : a < c.1
    · by_cases hb : b = Memory.unlisted
      · by_cases hx : x = a
        · have : Memory.read (c :: rest) a = Memory.unlisted := by
            have hne : ¬ a = c.1 := by omega
            simp only [Memory.read, hne, if_false]
            exact Memory.read_below hrest (by omega)
          simp [Memory.write, hlt, hb, hx, this]
        · simp [Memory.write, hlt, hb, hx]
      · simp [Memory.write, Memory.read, hlt, hb]
    · by_cases heq : a = c.1
      · by_cases hb : b = Memory.unlisted
        · by_cases hx : x = c.1
          · simp [Memory.write, heq, hb, hx, Memory.read_below hrest (Nat.lt_succ_self c.1)]
          · simp [Memory.write, Memory.read, heq, hb, hx]
        · by_cases hx : x = c.1 <;> simp [Memory.write, Memory.read, heq, hb, hx]
      · by_cases hx : x = c.1
        · have : ¬ c.1 = a := fun h => heq h.symm
          simp [Memory.write, Memory.read, hlt, heq, hx, this]
        · simp [Memory.write, Memory.read, hlt, heq, hx, ih hrest]

/-- Reading after writing: the value at the address written, every other address as before. -/
theorem Memory.read_write {m : Memory} (a x : Nat) (b : Byte) (hm : Memory.wf m = true) :
    Memory.read (Memory.write m a b) x = if x = a then b else Memory.read m x :=
  Memory.read_write_rising a x b hm

/-- What `MemWrite(a, 2, v)` can do: it stores the two bytes of `v` where both are admitted. -/
theorem memWrite16_eq_ok {a : Nat} {v : Word} {s t : State} (h : memWrite16 a v s = .ok t) :
    s.admits a = true ∧ s.admits (a + 1) = true ∧
    t = { s with
          mem := Memory.write (Memory.write s.mem a (v.extractLsb' 0 8)) (a + 1) (v.extractLsb' 8 8)
          trace := .memWrite a v :: s.trace } := by
  unfold memWrite16 at h
  split at h
  · rename_i hc
    simp only [Bool.and_eq_true] at hc
    exact ⟨hc.1, hc.2, by simpa [State.emit] using h.symm⟩
  · cases h

/-- What `MemRead(a, 2)` can do. -/
theorem memRead16_eq_ok {a : Nat} {s : State} {r : Word × State} (h : memRead16 a s = .ok r) :
    s.admits a = true ∧ s.admits (a + 1) = true ∧ r.1 = Memory.word s.mem a ∧
    r.2 = { s with trace := .memRead a r.1 :: s.trace } := by
  unfold memRead16 at h
  split at h
  · rename_i hc
    simp only [Bool.and_eq_true] at hc
    cases h
    exact ⟨hc.1, hc.2, rfl, rfl⟩
  · cases h

/-- `MemWrite` keeps the canonical form of caller memory. -/
theorem memWrite16_wf {a : Nat} {v : Word} {s t : State} (h : memWrite16 a v s = .ok t)
    (hm : Memory.wf s.mem = true) : Memory.wf t.mem = true := by
  obtain ⟨_, _, rfl⟩ := memWrite16_eq_ok h
  exact Memory.wf_write _ _ (Memory.wf_write _ _ hm)

end Sys2Proof.Machine
end

