-- ==== Sys2Proof/Laws/Io.lean ====
section
/-! SUPPORT. What the operations of the register protocol layer do to the block: nothing but their events. -/

namespace Sys2Proof.Machine

/-- `t` is `s` after port accesses and waits only: the block's record and caller memory are untouched. -/
def IoRun (s t : State) : Prop :=
  ∃ sc d tr, t = { s with script := sc, draws := d, trace := tr ++ s.trace }

theorem IoRun.refl (s : State) : IoRun s s := ⟨s.script, s.draws, [], rfl⟩

theorem IoRun.trans {s t u : State} (h₁ : IoRun s t) (h₂ : IoRun t u) : IoRun s u := by
  obtain ⟨sc₁, d₁, tr₁, rfl⟩ := h₁
  obtain ⟨sc₂, d₂, tr₂, rfl⟩ := h₂
  exact ⟨sc₂, d₂, tr₂ ++ tr₁, by simp⟩

theorem IoRun.emit (s : State) (e : Event) : IoRun s (s.emit e) := ⟨s.script, s.draws, [e], rfl⟩

theorem IoRun.cfg_eq {s t : State} (h : IoRun s t) : t.cfg = s.cfg := by
  obtain ⟨_, _, _, rfl⟩ := h; rfl

theorem IoRun.desc_eq {s t : State} (h : IoRun s t) : t.desc = s.desc := by
  obtain ⟨_, _, _, rfl⟩ := h; rfl

theorem IoRun.identified_eq {s t : State} (h : IoRun s t) : t.identified = s.identified := by
  obtain ⟨_, _, _, rfl⟩ := h; rfl

theorem IoRun.intEnabled_eq {s t : State} (h : IoRun s t) : t.intEnabled = s.intEnabled := by
  obtain ⟨_, _, _, rfl⟩ := h; rfl

theorem IoRun.selectedDrive_eq {s t : State} (h : IoRun s t) : t.selectedDrive = s.selectedDrive := by
  obtain ⟨_, _, _, rfl⟩ := h; rfl

theorem IoRun.tag_eq {s t : State} (h : IoRun s t) : t.tag = s.tag := by
  obtain ⟨_, _, _, rfl⟩ := h; rfl

theorem IoRun.cursorPtr_eq {s t : State} (h : IoRun s t) : t.cursorPtr = s.cursorPtr := by
  obtain ⟨_, _, _, rfl⟩ := h; rfl

theorem IoRun.remaining_eq {s t : State} (h : IoRun s t) : t.remaining = s.remaining := by
  obtain ⟨_, _, _, rfl⟩ := h; rfl

theorem IoRun.identBuf_eq {s t : State} (h : IoRun s t) : t.identBuf = s.identBuf := by
  obtain ⟨_, _, _, rfl⟩ := h; rfl

theorem IoRun.mem_eq {s t : State} (h : IoRun s t) : t.mem = s.mem := by
  obtain ⟨_, _, _, rfl⟩ := h; rfl

theorem IoRun.holes_eq {s t : State} (h : IoRun s t) : t.holes = s.holes := by
  obtain ⟨_, _, _, rfl⟩ := h; rfl

theorem IoRun.requests_eq {s t : State} (h : IoRun s t) : t.requests = s.requests := by
  obtain ⟨_, _, _, rfl⟩ := h; rfl

theorem IoRun.result_eq {s t : State} (h : IoRun s t) : t.result = s.result := by
  obtain ⟨_, _, _, rfl⟩ := h; rfl

/-- Only the device, the trace and the result differ. -/
theorem IoRun.onlyIo {s t : State} (h : IoRun s t) : OnlyIo s t := by
  obtain ⟨_, _, _, rfl⟩ := h; rfl

theorem portRead8_ioRun (p : Port) (s : State) : IoRun s (portRead8 p s).2 :=
  ⟨s.script.tail, s.draws + 1, [.portRead8 (portAddr s.cfg p) (portRead8 p s).1], rfl⟩

theorem portRead16_ioRun (p : Port) (s : State) : IoRun s (portRead16 p s).2 :=
  ⟨s.script.tail, s.draws + 1, [.portRead16 (portAddr s.cfg p) s.answer], rfl⟩

theorem portWrite8_ioRun (p : Port) (v : Byte) (s : State) : IoRun s (portWrite8 p v s) := IoRun.emit _ _

theorem portWrite16_ioRun (p : Port) (v : Word) (s : State) : IoRun s (portWrite16 p v s) := IoRun.emit _ _

theorem portWrites_ioRun (ws : List (Port × Byte)) (s : State) : IoRun s (portWrites ws s) := by
  induction ws generalizing s with
  | nil => exact IoRun.refl s
  | cons w ws ih => exact (portWrite8_ioRun w.1 w.2 s).trans (ih _)

theorem ioDelay_ioRun (s : State) : IoRun s (ioDelay s) := IoRun.emit _ _

theorem ioDelays_ioRun (n : Nat) (s : State) : IoRun s (ioDelays n s) := by
  induction n generalizing s with
  | zero => exact IoRun.refl s
  | succ n ih => exact (ioDelay_ioRun s).trans (ih _)

theorem lineMask_ioRun (e : Bool) (s : State) : IoRun s (lineMask e s) := IoRun.emit _ _

theorem altStatusReads_ioRun (n : Nat) (s : State) : IoRun s (altStatusReads n s) := by
  induction n generalizing s with
  | zero => exact IoRun.refl s
  | succ n ih => exact (portRead8_ioRun .altStatus s).trans (ih _)

theorem wait400_ioRun (s : State) : IoRun s (wait400 s) := altStatusReads_ioRun _ s

/-- A bounded wait only reads and waits (40_register_protocol.md R140: "Flags written: none"). -/
theorem waitBit_ioRun (bit : Nat) (target : Bool) (n : Nat) (s : State) : IoRun s (waitBit bit target n s).2 := by
  induction n generalizing s with
  | zero => exact IoRun.refl s
  | succ n ih =>
    have h₁ := portRead8_ioRun .altStatus s
    simp only [waitBit]
    split
    · exact h₁
    · split
      · exact h₁
      · exact (h₁.trans (ioDelay_ioRun _)).trans (ih _)

theorem pollBusy_ioRun (n : Nat) (s : State) : IoRun s (pollBusy n s).2 := waitBit_ioRun _ _ _ _

/-- A bounded wait answers `OK` or `TIMEOUT`. -/
theorem waitBit_code (bit : Nat) (target : Bool) (n : Nat) (s : State) :
    (waitBit bit target n s).1 = .ok ∨ (waitBit bit target n s).1 = .timeout := by
  induction n generalizing s with
  | zero => exact .inr rfl
  | succ n ih =>
    simp only [waitBit]
    split
    · exact .inl rfl
    · split
      · exact .inr rfl
      · exact ih _

theorem dataReads_ioRun (n : Nat) (s : State) : IoRun s (dataReads n s).2 := by
  induction n generalizing s with
  | zero => exact IoRun.refl s
  | succ n ih => exact (portRead16_ioRun .data s).trans (ih _)

theorem dataReads_length (n : Nat) (s : State) : (dataReads n s).1.length = n := by
  induction n generalizing s with
  | zero => rfl
  | succ n ih => simp [dataReads, ih]

theorem drainLoop_ioRun (n : Nat) (s : State) : IoRun s (drainLoop n s) := by
  induction n generalizing s with
  | zero => exact IoRun.refl s
  | succ n ih =>
    have h₁ := portRead8_ioRun .altStatus s
    simp only [drainLoop]
    split
    · exact (h₁.trans (portRead16_ioRun .data _)).trans (ih _)
    · exact h₁

theorem drain_ioRun (s : State) : IoRun s (drain s) := (portRead8_ioRun .status s).trans (drainLoop_ioRun _ _)

/-- What a chain of two steps can do: the first failed, or it succeeded and the second ran. -/
theorem andThen_cases (r : OpOut) (k : State → OpOut) :
    (r.1 ≠ .ok ∧ OpOut.andThen r k = r) ∨ (r.1 = .ok ∧ OpOut.andThen r k = k r.2) := by
  obtain ⟨c, s⟩ := r
  cases c <;> simp [OpOut.andThen]

theorem andThenMem_cases (r : OpOut) (k : State → MemOut) :
    (r.1 ≠ .ok ∧ OpOut.andThenMem r k = .ok r) ∨ (r.1 = .ok ∧ OpOut.andThenMem r k = k r.2) := by
  obtain ⟨c, s⟩ := r
  cases c <;> simp [OpOut.andThenMem]

theorem andThen_ioRun {s : State} {r : OpOut} {k : State → OpOut} (h : IoRun s r.2)
    (hk : ∀ u, IoRun s u → IoRun s (k u).2) : IoRun s (OpOut.andThen r k).2 := by
  rcases andThen_cases r k with ⟨_, h'⟩ | ⟨_, h'⟩ <;> rw [h']
  · exact h
  · exact hk _ h

theorem checkReady_ioRun (s : State) : IoRun s (checkReady s).2 :=
  andThen_ioRun (waitBit_ioRun _ _ _ _) fun _ hu =>
    andThen_ioRun (hu.trans (waitBit_ioRun _ _ _ _)) fun _ hv => hv.trans (waitBit_ioRun _ _ _ _)

/-- The guard of a command succeeds exactly on an identified block without an active command (R220), and changes
nothing. -/
theorem commandGuard_eq (s : State) :
    commandGuard s = (if s.identified = true ∧ s.tag = .none then ResultCode.ok else .protocolViolation, s) := by
  unfold commandGuard
  by_cases h₁ : s.identified = true <;> by_cases h₂ : s.tag = .none <;> simp [h₁, h₂]

end Sys2Proof.Machine
end

