-- ==== Sys2Proof/Laws/Trace.lean ====
section
/-! SUPPORT. Which events an operation can add to the trace, said once for every property of traces that holds of the
single events and is kept when one run follows another (`TraceRule`); `exec_traces` gives it for every instruction. -/

namespace Sys2Proof.Machine

/-- Which of the rarer events an instruction may make. -/
structure Grants where
  status : Prop
  mask : Prop
  eoi : Prop
  memory : Prop

/-- A property `Q` of the events a run adds (newest first) that every event of the block has and that runs compose. A
command byte comes with the Alternate Status reads of the 400 ns delay that follow it (40_register_protocol.md R148). -/
structure TraceRule (c : Config) (g : Grants) (Q : List Event → Prop) : Prop where
  nil : Q []
  append : ∀ a b, Q a → Q b → Q (b ++ a)
  altRead : ∀ v, Q [.portRead8 (portAddr c .altStatus) v]
  errorRead : ∀ v, Q [.portRead8 (portAddr c .error) v]
  drvHeadRead : ∀ v, Q [.portRead8 (portAddr c .drvHead) v]
  statusRead : g.status → ∀ v, Q [.portRead8 (portAddr c .status) v]
  dataRead : ∀ v, Q [.portRead16 (portAddr c .data) v]
  dataWrite : g.memory → ∀ v, Q [.portWrite16 (portAddr c .data) v]
  taskWrite : ∀ p v, p = .drvHead ∨ p = .count ∨ p = .lbaLo ∨ p = .lbaMid ∨ p = .lbaHi →
    Q [.portWrite8 (portAddr c p) v]
  devCtlWrite : ∀ v, v = 0x06#8 ∨ v = 0x02#8 ∨ v = 0x00#8 → Q [.portWrite8 (portAddr c .devCtl) v]
  commandWrite : ∀ op (vs : List Byte), vs.length = c.wait400Reads →
    Q (vs.map (.portRead8 (portAddr c .altStatus)) ++ [.portWrite8 (portAddr c .command) (opcodeByte op)])
  delay : Q [.ioDelay]
  memRead : g.memory → ∀ a v, Q [.memRead a v]
  memWrite : g.memory → ∀ a v, Q [.memWrite a v]
  maskLine : g.mask → Q [.maskLine c.irqLine]
  unmaskLine : g.mask → Q [.unmaskLine c.irqLine]
  sendEOI : g.eoi → Q [.sendEOI c.irqLine]

/-- The run from `s` to `t` keeps the parameters and adds events with the property `Q`. -/
def Traces (c : Config) (Q : List Event → Prop) (s t : State) : Prop :=
  s.cfg = c → t.cfg = c ∧ ∃ evs, Q evs ∧ t.trace = evs ++ s.trace

/-- The same where the operation may have been stuck. -/
def TracesMem (c : Config) (Q : List Event → Prop) (s : State) (r : MemOut) : Prop :=
  ∀ o, r = .ok o → Traces c Q s o.2

section

variable {c : Config} {g : Grants} {Q : List Event → Prop}

theorem Traces.refl (h : TraceRule c g Q) (s : State) : Traces c Q s s := fun hc => ⟨hc, [], h.nil, rfl⟩

theorem Traces.trans (h : TraceRule c g Q) {s t u : State} (h₁ : Traces c Q s t) (h₂ : Traces c Q t u) :
    Traces c Q s u := by
  intro hc
  obtain ⟨ht, e₁, q₁, r₁⟩ := h₁ hc
  obtain ⟨hu, e₂, q₂, r₂⟩ := h₂ ht
  exact ⟨hu, e₂ ++ e₁, h.append _ _ q₁ q₂, by rw [r₂, r₁, List.append_assoc]⟩

/-- An update that touches neither the parameters nor the trace. -/
theorem Traces.silent (h : TraceRule c g Q) {s t : State} (hcfg : t.cfg = s.cfg) (htr : t.trace = s.trace) :
    Traces c Q s t := fun hc => ⟨hcfg.trans hc, [], h.nil, htr⟩

theorem Traces.andThen (h : TraceRule c g Q) {s : State} {r : OpOut} {k : State → OpOut} (h₁ : Traces c Q s r.2)
    (hk : ∀ u, Traces c Q u (k u).2) : Traces c Q s (OpOut.andThen r k).2 := by
  rcases andThen_cases r k with ⟨_, h'⟩ | ⟨_, h'⟩ <;> rw [h']
  · exact h₁
  · exact h₁.trans h (hk _)

theorem TracesMem.of_ok {s : State} {o : OpOut} (h₁ : Traces c Q s o.2) : TracesMem c Q s (.ok o) := by
  intro o' ho; cases ho; exact h₁

theorem TracesMem.after (h : TraceRule c g Q) {s t : State} {r : MemOut} (h₁ : Traces c Q s t)
    (h₂ : TracesMem c Q t r) : TracesMem c Q s r := fun o ho => h₁.trans h (h₂ o ho)

theorem TracesMem.andThenMem (h : TraceRule c g Q) {s : State} {r : OpOut} {k : State → MemOut}
    (h₁ : Traces c Q s r.2) (hk : ∀ u, TracesMem c Q u (k u)) : TracesMem c Q s (OpOut.andThenMem r k) := by
  rcases andThenMem_cases r k with ⟨_, h'⟩ | ⟨_, h'⟩ <;> rw [h']
  · exact TracesMem.of_ok h₁
  · exact TracesMem.after h h₁ (hk _)

theorem TracesMem.andThen (h : TraceRule c g Q) {s : State} {r : MemOut} {k : State → MemOut}
    (h₁ : TracesMem c Q s r) (hk : ∀ u, TracesMem c Q u (k u)) : TracesMem c Q s (MemOut.andThen r k) := by
  cases r with
  | error f => intro o ho; cases ho
  | ok o => exact TracesMem.andThenMem h (h₁ o rfl) hk

theorem portRead8_traces {p : Port} (hq : ∀ v, Q [.portRead8 (portAddr c p) v]) (s : State) :
    Traces c Q s (portRead8 p s).2 := by
  intro hc
  exact ⟨hc, _, hq (portRead8 p s).1, by rw [← hc]; rfl⟩

theorem altRead_traces (h : TraceRule c g Q) (s : State) : Traces c Q s (portRead8 .altStatus s).2 :=
  portRead8_traces h.altRead s

theorem dataRead_traces (h : TraceRule c g Q) (s : State) : Traces c Q s (portRead16 .data s).2 := by
  intro hc
  exact ⟨hc, _, h.dataRead s.answer, by rw [← hc]; rfl⟩

theorem portWrite8_traces {p : Port} {v : Byte} (hq : Q [.portWrite8 (portAddr c p) v]) (s : State) :
    Traces c Q s (portWrite8 p v s) := by
  intro hc
  exact ⟨hc, _, hq, by rw [← hc]; rfl⟩

theorem ioDelay_traces (h : TraceRule c g Q) (s : State) : Traces c Q s (ioDelay s) :=
  fun hc => ⟨hc, _, h.delay, rfl⟩

theorem ioDelays_traces (h : TraceRule c g Q) (n : Nat) (s : State) : Traces c Q s (ioDelays n s) := by
  induction n generalizing s with
  | zero => exact Traces.refl h s
  | succ n ih => exact (ioDelay_traces h s).trans h (ih _)

theorem altStatusReads_traces (h : TraceRule c g Q) (n : Nat) (s : State) : Traces c Q s (altStatusReads n s) := by
  induction n generalizing s with
  | zero => exact Traces.refl h s
  | succ n ih => exact (altRead_traces h s).trans h (ih _)

theorem wait400_traces (h : TraceRule c g Q) (s : State) : Traces c Q s (wait400 s) := altStatusReads_traces h _ s

theorem waitBit_traces (h : TraceRule c g Q) (bit : Nat) (target : Bool) (n : Nat) (s : State) :
    Traces c Q s (waitBit bit target n s).2 := by
  induction n generalizing s with
  | zero => exact Traces.refl h s
  | succ n ih =>
    have h₁ := altRead_traces h s
    simp only [waitBit]
    split
    · exact h₁
    · split
      · exact h₁
      · exact (h₁.trans h (ioDelay_traces h _)).trans h (ih _)

theorem pollBusy_traces (h : TraceRule c g Q) (n : Nat) (s : State) : Traces c Q s (pollBusy n s).2 :=
  waitBit_traces h _ _ _ _

theorem endCommand_traces (h : TraceRule c g Q) (s : State) : Traces c Q s s.endCommand :=
  Traces.silent h rfl rfl

theorem devCtlMode_cases (b : Bool) : devCtlMode b = 0x06#8 ∨ devCtlMode b = 0x02#8 ∨ devCtlMode b = 0x00#8 := by
  cases b <;> simp [devCtlMode]

theorem driveSelect_traces (h : TraceRule c g Q) (d : BitVec 1) (s : State) : Traces c Q s (driveSelect d s).2 := by
  have hr := altRead_traces h s
  simp only [driveSelect]
  split
  · exact Traces.refl h s
  · split
    · exact hr
    · have hw := hr.trans h (portWrite8_traces (h.taskWrite .drvHead (drvHeadByte d 0#4) (.inl rfl)) _)
      refine Traces.andThen h ((hw.trans h (wait400_traces h _)).trans h (pollBusy_traces h _ _)) fun u => ?_
      split
      · exact altRead_traces h u
      · exact (altRead_traces h u).trans h (Traces.silent h rfl rfl)

theorem resetSequence_traces (h : TraceRule c g Q) (s : State) : Traces c Q s (resetSequence s).2 := by
  have h₁ : Traces c Q s ((s.setIntEnabled false).setTag .softReset) := Traces.silent h rfl rfl
  have h₂ := h₁.trans h (portWrite8_traces (h.devCtlWrite devCtlReset (.inl rfl)) _)
  have h₃ := h₂.trans h (ioDelays_traces h s.cfg.resetHoldDelays _)
  have h₄ := h₃.trans h (portWrite8_traces (h.devCtlWrite _ (devCtlMode_cases false)) _)
  exact (h₄.trans h (wait400_traces h _)).trans h (pollBusy_traces h _ _)

theorem reset_traces (h : TraceRule c g Q) (s : State) : Traces c Q s (reset s).2 := by
  have hr := altRead_traces h s
  simp only [reset]
  split
  · exact hr
  · have hs := hr.trans h (resetSequence_traces h (portRead8 .altStatus s).2)
    split
    · rename_i s1 heq
      rw [heq] at hs
      split
      · exact (hs.trans h (altRead_traces h _)).trans h (endCommand_traces h _)
      · have h₁ := (hs.trans h (altRead_traces h s1)).trans h
          (Traces.silent h (t := (portRead8 .altStatus s1).2.setIntEnabled (portRead8 .altStatus s).2.intEnabled) rfl rfl)
        exact (h₁.trans h (portWrite8_traces (h.devCtlWrite _ (devCtlMode_cases _)) _)).trans h
          (Traces.silent h rfl rfl)
    · rename_i s1 _ heq
      rw [heq] at hs
      exact hs.trans h (endCommand_traces h _)

/-! ### Device commands -/

/-- The reads of the 400 ns delay, as events. -/
theorem altStatusReads_trace (n : Nat) (s : State) : ∃ vs : List Byte, vs.length = n ∧
    (altStatusReads n s).cfg = s.cfg ∧
    (altStatusReads n s).trace = vs.map (.portRead8 (portAddr s.cfg .altStatus)) ++ s.trace := by
  induction n generalizing s with
  | zero => exact ⟨[], rfl, rfl, rfl⟩
  | succ n ih =>
    obtain ⟨vs, hl, hc, ht⟩ := ih (portRead8 .altStatus s).2
    refine ⟨vs ++ [(portRead8 .altStatus s).1], by simp [hl], hc, ?_⟩
    simp only [altStatusReads]
    rw [ht]
    simp [portRead8]

/-- A command byte, a silent record of it, and the 400 ns delay. -/
theorem command_traces (h : TraceRule c g Q) (op : AtaOpcode) (s t : State)
    (hcfg : t.cfg = s.cfg) (htr : t.trace = (portWrite8 .command (opcodeByte op) s).trace) :
    Traces c Q s (wait400 t) := by
  intro hc
  obtain ⟨vs, hl, hc', ht⟩ := altStatusReads_trace t.cfg.wait400Reads t
  rw [hcfg, hc] at hl ht
  refine ⟨by rw [wait400, hc', hcfg, hc], _, h.commandWrite op vs hl, ?_⟩
  rw [wait400, hcfg, hc, ht, htr]
  simp [portWrite8, hc]

theorem immediateErrorCheck_traces (h : TraceRule c g Q) {s t : State} (hw : Traces c Q s (wait400 t)) :
    Traces c Q s (immediateErrorCheck t).2 := by
  have hr := hw.trans h (altRead_traces h _)
  simp only [immediateErrorCheck]
  split
  · exact hr.trans h (endCommand_traces h _)
  · exact hr

theorem issueCommand_traces (h : TraceRule c g Q) (op : AtaOpcode) (s : State) :
    Traces c Q s (issueCommand op s).2 :=
  immediateErrorCheck_traces h (command_traces h op s _ rfl rfl)

theorem commandGuard_traces (h : TraceRule c g Q) (s : State) : Traces c Q s (commandGuard s).2 := by
  rw [commandGuard_eq]; exact Traces.refl h s

theorem checkReady_traces (h : TraceRule c g Q) (s : State) : Traces c Q s (checkReady s).2 :=
  Traces.andThen h (waitBit_traces h _ _ _ _) fun _ =>
    Traces.andThen h (waitBit_traces h _ _ _ _) fun _ => waitBit_traces h _ _ _ _

theorem finishCheck_traces (h : TraceRule c g Q) (s : State) : Traces c Q s (finishCheck s).2 := by
  simp only [finishCheck]
  split
  · exact (altRead_traces h s).trans h (endCommand_traces h _)
  · exact altRead_traces h s

theorem pollFinish_traces (h : TraceRule c g Q) (s : State) : Traces c Q s (pollFinish s).2 :=
  Traces.andThen h (pollBusy_traces h _ _) fun u => finishCheck_traces h u

theorem flushCommand_traces (h : TraceRule c g Q) (s : State) : Traces c Q s (flushCommand s).2 := by
  refine Traces.andThen h (commandGuard_traces h s) fun u => ?_
  refine Traces.andThen h (checkReady_traces h u) fun u => ?_
  refine Traces.andThen h (issueCommand_traces h _ u) fun u => ?_
  split
  · exact Traces.refl h u
  · exact pollFinish_traces h u

theorem setMultipleCommand_traces (h : TraceRule c g Q) (m : Byte) (s : State) :
    Traces c Q s (setMultipleCommand m s).2 := by
  refine Traces.andThen h (commandGuard_traces h s) fun u => ?_
  split
  · exact Traces.refl h u
  · split
    · exact Traces.refl h u
    · refine Traces.andThen h (checkReady_traces h u) fun u => ?_
      refine Traces.andThen h ((portWrite8_traces (h.taskWrite .count m (.inr (.inl rfl))) u).trans h
        (issueCommand_traces h _ _)) fun u => ?_
      exact Traces.andThen h (pollFinish_traces h u) fun u => Traces.silent h rfl rfl

/-! ### Identification -/

theorem dataReads_traces (h : TraceRule c g Q) (n : Nat) (s : State) : Traces c Q s (dataReads n s).2 := by
  induction n generalizing s with
  | zero => exact Traces.refl h s
  | succ n ih => exact (dataRead_traces h s).trans h (ih _)

theorem identBurst_traces (h : TraceRule c g Q) (s : State) : Traces c Q s (identBurst s).2 := by
  have hd := dataReads_traces h s.cfg.identWords.count s
  unfold identBurst
  generalize dataReads s.cfg.identWords.count s = r at hd ⊢
  have hb : Traces c Q s (r.2.setIdentBuf (identBufOf r.1)) :=
    hd.trans h (Traces.silent h (State.setIdentBuf_cfg _ _) (State.setIdentBuf_trace _ _))
  dsimp only
  generalize r.2.setIdentBuf (identBufOf r.1) = u at hb ⊢
  split
  · exact hb.trans h (Traces.silent h (State.commit_cfg _ _) (State.commit_trace _ _))
  · exact hb.trans h (Traces.silent h (State.setIdentified_cfg _ _) (State.setIdentified_trace _ _))

theorem identifyData_traces (h : TraceRule c g Q) (s : State) : Traces c Q s (identifyData s).2 := by
  have hr := altRead_traces h s
  simp only [identifyData]
  split
  · exact hr
  · split
    · exact hr.trans h (endCommand_traces h _)
    · exact hr.trans h (identBurst_traces h _)

theorem identifyFinish_traces (h : TraceRule c g Q) (p : ResultCode) (s : State) :
    Traces c Q s (identifyFinish p s).2 :=
  Traces.andThen h ((wait400_traces h s).trans h (pollBusy_traces h _ _)) fun u => finishCheck_traces h u

theorem identifyPolled_traces (h : TraceRule c g Q) (s : State) : Traces c Q s (identifyPolled s).2 := by
  refine Traces.andThen h (pollBusy_traces h _ _) fun u => ?_
  have hd := identifyData_traces h u
  dsimp only
  split
  · exact hd
  · split
    · exact hd
    · exact hd.trans h (identifyFinish_traces h _ _)

theorem identifyCommand_traces (h : TraceRule c g Q) (s : State) : Traces c Q s (identifyCommand s).2 := by
  have hr := altRead_traces h s
  simp only [identifyCommand]
  split
  · exact Traces.refl h s
  · split
    · exact hr
    · refine Traces.andThen h (hr.trans h (issueCommand_traces h _ _)) fun u => ?_
      split
      · exact Traces.refl h u
      · exact identifyPolled_traces h u

/-! ### Transfers -/

theorem moveIn_traces (h : TraceRule c g Q) (hg : g.memory) (n a : Nat) (s t : State) (hm : moveIn n a s = .ok t) :
    Traces c Q s t := by
  induction n generalizing a s with
  | zero => cases hm; exact Traces.refl h _
  | succ n ih =>
    simp only [moveIn] at hm
    split at hm
    · cases hm
    · rename_i s1 hw
      obtain ⟨_, _, rfl⟩ := memWrite16_eq_ok hw
      refine (dataRead_traces h s).trans h (Traces.trans h (fun hc => ?_) (ih _ _ hm))
      exact ⟨hc, _, h.memWrite hg a (portRead16 .data s).1, rfl⟩

theorem moveOut_traces (h : TraceRule c g Q) (hg : g.memory) (n a : Nat) (s t : State) (hm : moveOut n a s = .ok t) :
    Traces c Q s t := by
  induction n generalizing a s with
  | zero => cases hm; exact Traces.refl h _
  | succ n ih =>
    simp only [moveOut] at hm
    split at hm
    · cases hm
    · rename_i r hr
      obtain ⟨_, _, _, h2⟩ := memRead16_eq_ok hr
      have h₁ : Traces c Q s r.2 := by
        rw [h2]; exact fun hc => ⟨hc, _, h.memRead hg a r.1, rfl⟩
      have h₂ : Traces c Q r.2 (portWrite16 .data r.1 r.2) := fun hc => by
        refine ⟨hc, _, h.dataWrite hg r.1, ?_⟩
        rw [← hc]; rfl
      exact (h₁.trans h h₂).trans h (ih _ _ hm)

theorem moveUnit_traces (h : TraceRule c g Q) (hg : g.memory) (s t : State) (hm : moveUnit s = .ok t) :
    Traces c Q s t := by
  unfold moveUnit at hm
  split at hm
  · exact moveIn_traces h hg _ _ _ _ hm
  · exact moveOut_traces h hg _ _ _ _ hm

theorem transfer_traces (h : TraceRule c g Q) (hg : g.memory) (s : State) : TracesMem c Q s (transfer s) := by
  have hr := altRead_traces h s
  simp only [transfer]
  split
  · exact TracesMem.of_ok (Traces.refl h s)
  · split
    · exact TracesMem.of_ok hr
    · split
      · exact TracesMem.of_ok (hr.trans h (endCommand_traces h _))
      · split
        · intro o ho; cases ho
        · rename_i s1 hm
          exact TracesMem.of_ok ((hr.trans h (moveUnit_traces h hg _ _ hm)).trans h (Traces.silent h rfl rfl))

theorem pollLoop_traces (h : TraceRule c g Q) (hg : g.memory) (n : Nat) (s : State) :
    TracesMem c Q s (pollLoop n s) := by
  induction n generalizing s with
  | zero => exact TracesMem.of_ok (Traces.refl h s)
  | succ n ih =>
    refine TracesMem.andThenMem h (pollBusy_traces h _ _) fun u => ?_
    refine TracesMem.andThen h (transfer_traces h hg u) fun u => ?_
    split
    · exact TracesMem.of_ok ((wait400_traces h u).trans h (pollFinish_traces h _))
    · exact TracesMem.after h (wait400_traces h u) (ih _)

theorem imageRW_ports (l : Bool) (d : BitVec 1) (st ct : DWord) : ∀ w ∈ imageRW l d st ct,
    w.1 = .drvHead ∨ w.1 = .count ∨ w.1 = .lbaLo ∨ w.1 = .lbaMid ∨ w.1 = .lbaHi := by
  cases l <;> simp [imageRW, imageLba28, imageLba48]

theorem portWrites_traces (h : TraceRule c g Q) (ws : List (Port × Byte)) (s : State)
    (hp : ∀ w ∈ ws, w.1 = .drvHead ∨ w.1 = .count ∨ w.1 = .lbaLo ∨ w.1 = .lbaMid ∨ w.1 = .lbaHi) :
    Traces c Q s (portWrites ws s) := by
  induction ws generalizing s with
  | nil => exact Traces.refl h s
  | cons w ws ih =>
    exact (portWrite8_traces (h.taskWrite w.1 w.2 (hp w (by simp))) s).trans h
      (ih _ fun v hv => hp v (by simp [hv]))

theorem issueRW_traces (h : TraceRule c g Q) (hg : g.memory) (dir : Dir) (buf : Addr) (start count : DWord)
    (s : State) : TracesMem c Q s (issueRW dir buf start count s) := by
  refine TracesMem.andThenMem h (commandGuard_traces h s) fun u => ?_
  split
  · exact TracesMem.of_ok (Traces.refl h u)
  · refine TracesMem.andThenMem h (checkReady_traces h u) fun u => ?_
    have hi := portWrites_traces h (imageRW u.desc.hasLba48 u.selectedDrive start count) u (imageRW_ports _ _ _ _)
    have hw := hi.trans h (command_traces h (selectOpcode u.desc dir) _
      (issueImage (selectOpcode u.desc dir) buf start count u) rfl rfl)
    refine TracesMem.andThenMem h (immediateErrorCheck_traces h hw) fun u => ?_
    split
    · exact TracesMem.of_ok (Traces.refl h u)
    · exact pollLoop_traces h hg _ u

theorem issueNamed_traces (h : TraceRule c g Q) (hg : g.memory) (op : AtaOpcode) (dir : Dir) (buf : Addr)
    (start count : DWord) (s : State) : TracesMem c Q s (issueNamed op dir buf start count s) := by
  unfold issueNamed
  split
  · exact issueRW_traces h hg _ _ _ _ s
  · exact TracesMem.of_ok (Traces.refl h s)

/-! ### Interrupts and bring-up -/

theorem completeUnit_traces (h : TraceRule c g Q) {s : State} {r : OpOut} (hr : Traces c Q s r.2) :
    Traces c Q s (completeUnit r).2 := by
  unfold completeUnit
  split
  · have hs := (hr.trans h (wait400_traces h _)).trans h (altRead_traces h _)
    simp only [completionCheck]
    split
    · exact hs.trans h (endCommand_traces h _)
    · exact hs
  · exact hr

theorem dispatch_traces (h : TraceRule c g Q) (hg : g.memory) (st : Byte) (s : State) :
    TracesMem c Q s (dispatch st s) := by
  unfold dispatch
  split
  · split
    · intro o ho; cases ho
    · rename_i r hr
      exact TracesMem.of_ok (completeUnit_traces h (transfer_traces h hg s r hr))
  · refine TracesMem.of_ok ?_
    unfold dispatchNoUnit
    split
    · exact Traces.refl h s
    · split
      all_goals first
        | exact Traces.refl h s
        | exact completeUnit_traces h (Traces.refl h s)
        | exact completeUnit_traces h (identifyData_traces h s)

theorem confirmAndDrain_traces (h : TraceRule c g Q) (hg : g.status) (s : State) :
    Traces c Q s (confirmAndDrain s).2 := by
  have hr : Traces c Q s (portRead8 .drvHead s).2 := portRead8_traces h.drvHeadRead s
  have loop : ∀ n u, Traces c Q u (drainLoop n u) := by
    intro n
    induction n with
    | zero => exact Traces.refl h
    | succ n ih =>
      intro u
      have h₁ := altRead_traces h u
      simp only [drainLoop]
      split
      · exact (h₁.trans h (dataRead_traces h _)).trans h (ih _)
      · exact h₁
  simp only [confirmAndDrain]
  split
  · exact hr
  · exact hr.trans h ((portRead8_traces (h.statusRead hg) _).trans h (loop _ _))

theorem negotiateMultiple_traces (h : TraceRule c g Q) (s : State) : Traces c Q s (negotiateMultiple s).2 := by
  unfold negotiateMultiple
  split
  · exact Traces.silent h rfl rfl
  · exact setMultipleCommand_traces h _ s

theorem bringUp_traces (h : TraceRule c g Q) (hg : g.status) (s : State) : Traces c Q s (bringUp s).2 := by
  have h₀ : Traces c Q s ((s.setIntEnabled false).setIdentified false) := Traces.silent h rfl rfl
  refine Traces.andThen h (h₀.trans h (reset_traces h _)) fun u => ?_
  refine Traces.andThen h (driveSelect_traces h _ u) fun u => ?_
  refine Traces.andThen h (identifyCommand_traces h u) fun u => ?_
  exact Traces.andThen h (negotiateMultiple_traces h u) fun u => confirmAndDrain_traces h hg u

theorem interruptMode_traces (h : TraceRule c g Q) (hg : g.mask) (e : Bool) (s : State) :
    Traces c Q s (interruptMode e s).2 := by
  unfold interruptMode
  split
  · exact Traces.refl h s
  · have h₁ : Traces c Q s (s.setIntEnabled e) := Traces.silent h rfl rfl
    refine (h₁.trans h (portWrite8_traces (h.devCtlWrite _ (devCtlMode_cases e)) _)).trans h fun hc => ?_
    cases e
    · exact ⟨hc, _, h.maskLine hg, by rw [← hc]; rfl⟩
    · exact ⟨hc, _, h.unmaskLine hg, by rw [← hc]; rfl⟩

end

/-- The rarer events each instruction may make. -/
def grantsOf (i : Instr) : Grants where
  status := i = .onInterrupt ∨ i = .initializeBlock
  mask := ∃ e, i = .setInterruptMode e
  eoi := i = .onInterrupt
  memory := touchesMemory i = true

section

variable {c : Config} {g : Grants} {Q : List Event → Prop}

theorem finish_traces (h : TraceRule c g Q) {s t : State} {r : OpOut} (hr : Traces c Q s r.2) (ht : finish r = .next t) :
    Traces c Q s t := by
  cases ht
  exact hr.trans h (Traces.silent h rfl rfl)

theorem finishMem_traces (h : TraceRule c g Q) {s t : State} {r : MemOut} (hr : TracesMem c Q s r)
    (ht : finishMem r = .next t) : Traces c Q s t := by
  cases r with
  | error f => cases ht
  | ok o => exact finish_traces h (hr o rfl) ht

theorem statusTest_traces (h : TraceRule c g Q) (test : Byte → Bool) {s t : State} (ht : statusTest test s = .next t) :
    Traces c Q s t := by
  cases ht
  exact (altRead_traces h s).trans h (Traces.silent h rfl rfl)

theorem onInterrupt_traces (h : TraceRule c g Q) (hs : g.status) (he : g.eoi) (hm : g.memory) {s t : State}
    (ht : execOnInterrupt s = .next t) : Traces c Q s t := by
  simp only [execOnInterrupt] at ht
  split at ht
  · cases ht
  · rename_i r hr
    have h₁ : Traces c Q s (interruptEntry s).2 := portRead8_traces (h.statusRead hs) s
    have h₂ := h₁.trans h (dispatch_traces h hm _ _ r hr)
    refine finish_traces h (h₂.trans h fun hc => ?_) ht
    exact ⟨hc, _, h.sendEOI he, by rw [← hc]; rfl⟩

end

/-- Whatever an instruction does, it keeps the parameters and adds events that obey every `TraceRule`. -/
theorem exec_traces {c : Config} {Q : List Event → Prop} {i : Instr} (h : TraceRule c (grantsOf i) Q) {s t : State}
    (ht : exec i s = .next t) : Traces c Q s t := by
  cases i with
  | identifyDevice => exact finish_traces h (identifyCommand_traces h s) ht
  | readSectors b st ct => exact finishMem_traces h (issueNamed_traces h rfl _ _ _ _ _ s) ht
  | readSectorsExt b st ct => exact finishMem_traces h (issueNamed_traces h rfl _ _ _ _ _ s) ht
  | readMultiple b st ct => exact finishMem_traces h (issueNamed_traces h rfl _ _ _ _ _ s) ht
  | readMultipleExt b st ct => exact finishMem_traces h (issueNamed_traces h rfl _ _ _ _ _ s) ht
  | writeSectors b st ct => exact finishMem_traces h (issueNamed_traces h rfl _ _ _ _ _ s) ht
  | writeSectorsExt b st ct => exact finishMem_traces h (issueNamed_traces h rfl _ _ _ _ _ s) ht
  | writeMultiple b st ct => exact finishMem_traces h (issueNamed_traces h rfl _ _ _ _ _ s) ht
  | writeMultipleExt b st ct => exact finishMem_traces h (issueNamed_traces h rfl _ _ _ _ _ s) ht
  | flushCache => exact finish_traces h (flushCommand_traces h s) ht
  | setMultipleModeCommand m => exact finish_traces h (setMultipleCommand_traces h m s) ht
  | initializeBlock => exact finish_traces h (bringUp_traces h (.inr rfl) s) ht
  | read b st ct => exact finishMem_traces h (issueRW_traces h rfl _ _ _ _ s) ht
  | write b st ct => exact finishMem_traces h (issueRW_traces h rfl _ _ _ _ s) ht
  | flush => exact finish_traces h (flushCommand_traces h s) ht
  | setInterruptMode e => exact finish_traces h (interruptMode_traces h ⟨e, rfl⟩ e s) ht
  | getError =>
    cases ht
    exact (portRead8_traces h.errorRead s).trans h (Traces.silent h rfl rfl)
  | identify => exact finish_traces h (identifyCommand_traces h s) ht
  | selectDrive d => exact finish_traces h (driveSelect_traces h d s) ht
  | softwareReset => exact finish_traces h (reset_traces h s) ht
  | waitBusy b => exact finish_traces h (waitBit_traces h _ _ _ s) ht
  | waitDataRequest b => exact finish_traces h (waitBit_traces h _ _ _ s) ht
  | waitDeviceReady b => exact finish_traces h (waitBit_traces h _ _ _ s) ht
  | isBusy => exact statusTest_traces h _ ht
  | isDataRequestPending => exact statusTest_traces h _ ht
  | hasError => exact statusTest_traces h _ ht
  | wait400ns => exact finish_traces h (wait400_traces h s) ht
  | transferUnit => exact finishMem_traces h (transfer_traces h rfl s) ht
  | setMultipleMode m => exact finish_traces h (setMultipleCommand_traces h m s) ht
  | onInterrupt => exact onInterrupt_traces h (.inl rfl) rfl rfl ht

end Sys2Proof.Machine
end

