-- ==== Sys2Proof/Laws/Effect.lean ====
section
/-! SUPPORT. What an operation can do to the block, said once: every meaning is a chain of the small effects of `Effect`,
each with the guard under which the spec takes it (`exec_effects`). An invariant is proved once per effect. -/

namespace Sys2Proof.Machine

/-- One effect of an operation on the machine. `memory` says whether caller memory may be touched. -/
inductive Effect (memory : Prop) : State → State → Prop where
  /-- Port accesses and waits. -/
  | io {s t : State} (h : IoRun s t) : Effect memory s t
  /-- `d.tag <- NONE; clearCursor()` (10_state.md R36). -/
  | endCommand (s : State) : Effect memory s s.endCommand
  /-- `d.intEnabled <- e`. -/
  | intEnabled (s : State) (e : Bool) : Effect memory s (s.setIntEnabled e)
  /-- `d.identified <- 0`. -/
  | unidentify (s : State) : Effect memory s (s.setIdentified false)
  /-- `d.selectedDrive <- v`. -/
  | drive (s : State) (v : BitVec 1) : Effect memory s (s.setSelectedDrive v)
  /-- A command without caller data is issued while none is active. -/
  | issue (s : State) (op : AtaOpcode) (hs : s.tag = .none) (ho : (tagOf op).isData = false) :
      Effect memory s (s.setTag (tagOf op))
  /-- A read or write command is issued while none is active. -/
  | issueRW (s : State) (dir : Dir) (a : Nat) (n : DWord) (hs : s.tag = .none) :
      Effect memory s ((s.setTag (tagOf (selectOpcode s.desc dir))).setCursor (toPtr s.cfg a) n)
  /-- One word stored in caller memory, by a read command. -/
  | memWrite {s t : State} (a : Nat) (v : Word) (hm : memory) (hs : s.tag.isRead = true)
      (h : memWrite16 a v s = .ok t) : Effect memory s t
  /-- The cursor moves, while a read or write command is active. -/
  | advance (s : State) (a : Nat) (n : DWord) (hs : s.tag.isData = true) :
      Effect memory s (s.setCursor (toPtr s.cfg a) n)
  /-- The identify buffer is filled. -/
  | identBuf (s : State) (w : IdentBuf) : Effect memory s (s.setIdentBuf w)
  /-- A parse of the identify buffer is committed. -/
  | commit (s : State) (f : Descriptor) (hf : parseIdentify s.identBuf = some f) (hs : s.tag.isMultiple = false) :
      Effect memory s (s.commit f)
  /-- The negotiated block size is recorded. -/
  | currentMultiple (s : State) (m : Byte) (hs : s.tag.isMultiple = false) : Effect memory s (s.setCurrentMultiple m)
  /-- The result is returned. -/
  | result (s : State) (c : ResultCode) (v : ResultValue) : Effect memory s (s.setResult c v)

/-- A chain of effects. -/
inductive Effects (memory : Prop) (s : State) : State → Prop where
  | refl : Effects memory s s
  | tail {t u : State} (h : Effects memory s t) (e : Effect memory t u) : Effects memory s u

section

variable {m : Prop}

theorem Effects.trans {s t u : State} (h₁ : Effects m s t) (h₂ : Effects m t u) : Effects m s u := by
  induction h₂ with
  | refl => exact h₁
  | tail _ e ih => exact ih.tail e

theorem Effect.single {s t : State} (e : Effect m s t) : Effects m s t := Effects.refl.tail e

/-- An invariant that every effect keeps is kept by a chain. -/
theorem Effects.keeps {P : State → Prop} (hP : ∀ s t, Effect m s t → P s → P t) {s t : State} (h : Effects m s t)
    (hs : P s) : P t := by
  induction h with
  | refl => exact hs
  | tail _ e ih => exact hP _ _ e ih

theorem IoRun.effects {s t : State} (h : IoRun s t) : Effects m s t := (Effect.io h).single

theorem andThen_effects {s : State} {r : OpOut} {k : State → OpOut} (h₁ : Effects m s r.2)
    (hk : r.1 = .ok → Effects m r.2 (k r.2).2) : Effects m s (OpOut.andThen r k).2 := by
  rcases andThen_cases r k with ⟨_, h'⟩ | ⟨hc, h'⟩ <;> rw [h']
  · exact h₁
  · exact h₁.trans (hk hc)

/-- The effects of an operation that may have been stuck. -/
def EffectsMem (m : Prop) (s : State) (r : MemOut) : Prop := ∀ o, r = .ok o → Effects m s o.2

theorem EffectsMem.of_ok {s : State} {o : OpOut} (h : Effects m s o.2) : EffectsMem m s (.ok o) := by
  intro o' ho; cases ho; exact h

theorem EffectsMem.after {s t : State} {r : MemOut} (h₁ : Effects m s t) (h₂ : EffectsMem m t r) :
    EffectsMem m s r := fun o ho => h₁.trans (h₂ o ho)

theorem andThenMem_effects {s : State} {r : OpOut} {k : State → MemOut} (h₁ : Effects m s r.2)
    (hk : r.1 = .ok → EffectsMem m r.2 (k r.2)) : EffectsMem m s (OpOut.andThenMem r k) := by
  rcases andThenMem_cases r k with ⟨_, h'⟩ | ⟨hc, h'⟩ <;> rw [h']
  · exact EffectsMem.of_ok h₁
  · exact EffectsMem.after h₁ (hk hc)

theorem memAndThen_effects {s : State} {r : MemOut} {k : State → MemOut} (h₁ : EffectsMem m s r)
    (hk : ∀ u, r = .ok (.ok, u) → EffectsMem m u (k u)) : EffectsMem m s (MemOut.andThen r k) := by
  cases r with
  | error f => intro o ho; cases ho
  | ok o =>
    obtain ⟨c, u⟩ := o
    exact andThenMem_effects (h₁ _ rfl) (fun hc => hk u (by simp only at hc; rw [hc]))

/-! ### Register protocol -/

theorem driveSelect_effects (d : BitVec 1) (s : State) : Effects m s (driveSelect d s).2 := by
  have hr := portRead8_ioRun .altStatus s
  simp only [driveSelect]
  split
  · exact .refl
  · split
    · exact hr.effects
    · refine andThen_effects (((hr.trans (portWrite8_ioRun _ _ _)).trans (wait400_ioRun _)).trans
        (pollBusy_ioRun _ _)).effects fun _ => ?_
      split
      · exact (portRead8_ioRun _ _).effects
      · exact (portRead8_ioRun _ _).effects.tail (.drive _ _)

/-- The reset sequence only turns interrupts off, marks the reset, and waits. -/
theorem resetSequence_ioRun (s : State) :
    IoRun ((s.setIntEnabled false).setTag .softReset) (resetSequence s).2 :=
  ((((portWrite8_ioRun _ _ _).trans (ioDelays_ioRun _ _)).trans (portWrite8_ioRun _ _ _)).trans
    (wait400_ioRun _)).trans (pollBusy_ioRun _ _)

/-- Ending a command forgets the mark of the reset. -/
theorem endCommand_after_reset {s t : State} (h : IoRun ((s.setIntEnabled false).setTag .softReset) t) :
    ∃ u, IoRun (s.setIntEnabled false) u ∧ t.endCommand = u.endCommand := by
  obtain ⟨sc, d, tr, rfl⟩ := h
  exact ⟨_, ⟨sc, d, tr, rfl⟩, rfl⟩

/-- What a software reset can do (40_register_protocol.md R151): nothing, where the device is busy; else it ends the
command and leaves `intEnabled` at 0 on a failure, restored on success with drive 0 selected. -/
theorem reset_cases (s : State) :
    ((reset s).1 = .protocolViolation ∧ IoRun s (reset s).2) ∨
    (((reset s).1 = .timeout ∨ (reset s).1 = .deviceError) ∧
      ∃ u, IoRun (s.setIntEnabled false) u ∧ (reset s).2 = u.endCommand) ∨
    ((reset s).1 = .ok ∧ ∃ u, IoRun s u ∧ (reset s).2 = (u.setSelectedDrive 0#1).endCommand) := by
  have hr := portRead8_ioRun .altStatus s
  simp only [reset]
  split
  · exact .inl ⟨rfl, hr⟩
  · have hs := resetSequence_ioRun (portRead8 .altStatus s).2
    split
    · rename_i s1 heq
      rw [heq] at hs
      have hq := hs.trans (portRead8_ioRun .altStatus s1)
      split
      · refine .inr (.inl ⟨.inr rfl, ?_⟩)
        obtain ⟨u, hu, he⟩ := endCommand_after_reset hq
        refine ⟨u, ?_, he⟩
        obtain ⟨sc₁, d₁, tr₁, h₁⟩ := hr
        obtain ⟨sc₂, d₂, tr₂, rfl⟩ := hu
        exact ⟨sc₂, d₂, tr₂ ++ tr₁, by rw [h₁]; simp [State.setIntEnabled]⟩
      · refine .inr (.inr ⟨rfl, ?_⟩)
        obtain ⟨sc₁, d₁, tr₁, h₁⟩ := hr
        obtain ⟨sc₂, d₂, tr₂, h₂⟩ := hq
        refine ⟨{ s with
          script := sc₂, draws := d₂
          trace := .portWrite8 (portAddr s.cfg .devCtl) (devCtlMode s.intEnabled) :: (tr₂ ++ (tr₁ ++ s.trace)) },
          ⟨sc₂, d₂, .portWrite8 (portAddr s.cfg .devCtl) (devCtlMode s.intEnabled) :: (tr₂ ++ tr₁), by simp⟩, ?_⟩
        rw [h₂, h₁]
        rfl
    · rename_i c' s1 heq hne
      rw [hne] at hs
      refine .inr (.inl ⟨.inl rfl, ?_⟩)
      obtain ⟨u, hu, he⟩ := endCommand_after_reset hs
      refine ⟨u, ?_, he⟩
      obtain ⟨sc₁, d₁, tr₁, h₁⟩ := hr
      obtain ⟨sc₂, d₂, tr₂, rfl⟩ := hu
      exact ⟨sc₂, d₂, tr₂ ++ tr₁, by rw [h₁]; simp [State.setIntEnabled]⟩

theorem reset_effects (s : State) : Effects m s (reset s).2 := by
  rcases reset_cases s with ⟨_, h⟩ | ⟨_, u, h, he⟩ | ⟨_, u, h, he⟩
  · exact h.effects
  · rw [he]; exact ((Effect.intEnabled s false).single.trans h.effects).tail (.endCommand _)
  · rw [he]; exact (h.effects.tail (.drive _ _)).tail (.endCommand _)

/-! ### Device commands -/

/-- What the immediate error check can do (42_command_transfer.md R223). -/
theorem immediateErrorCheck_cases (s : State) :
    ((immediateErrorCheck s).1 = .ok ∧ IoRun s (immediateErrorCheck s).2) ∨
    ((immediateErrorCheck s).1 = .deviceError ∧ ∃ u, IoRun s u ∧ (immediateErrorCheck s).2 = u.endCommand) := by
  have hr := (wait400_ioRun s).trans (portRead8_ioRun .altStatus _)
  simp only [immediateErrorCheck]
  split
  · exact .inr ⟨rfl, _, hr, rfl⟩
  · exact .inl ⟨rfl, hr⟩

theorem immediateErrorCheck_effects (s : State) : Effects m s (immediateErrorCheck s).2 := by
  rcases immediateErrorCheck_cases s with ⟨_, h⟩ | ⟨_, u, h, he⟩
  · exact h.effects
  · rw [he]; exact h.effects.tail (.endCommand _)

/-- What the finish check can do (42_command_transfer.md R224): only an idle status ends the command. -/
theorem finishCheck_cases (s : State) :
    (((finishCheck s).1 = .ok ∨ (finishCheck s).1 = .deviceError) ∧
      ∃ u, IoRun s u ∧ (finishCheck s).2 = u.endCommand) ∨
    ((finishCheck s).1 = .protocolViolation ∧ IoRun s (finishCheck s).2) := by
  have hr := portRead8_ioRun .altStatus s
  simp only [finishCheck]
  split
  · refine .inl ⟨?_, _, hr, rfl⟩
    unfold failedOr
    split
    · exact .inr rfl
    · exact .inl rfl
  · exact .inr ⟨rfl, hr⟩

theorem finishCheck_effects (s : State) : Effects m s (finishCheck s).2 := by
  rcases finishCheck_cases s with ⟨_, u, h, he⟩ | ⟨_, h⟩
  · rw [he]; exact h.effects.tail (.endCommand _)
  · exact h.effects

theorem finishCheck_ok {s : State} (h : (finishCheck s).1 = .ok) : (finishCheck s).2.tag = .none := by
  rcases finishCheck_cases s with ⟨_, u, _, he⟩ | ⟨hc, _⟩
  · rw [he]; rfl
  · rw [hc] at h; cases h

theorem pollFinish_effects (s : State) : Effects m s (pollFinish s).2 :=
  andThen_effects (pollBusy_ioRun _ _).effects fun _ => finishCheck_effects _

theorem pollFinish_ok {s : State} (h : (pollFinish s).1 = .ok) : (pollFinish s).2.tag = .none := by
  unfold pollFinish at h ⊢
  rcases andThen_cases (pollBusy s.cfg.pollBudget s) finishCheck with ⟨hn, h'⟩ | ⟨_, h'⟩ <;> rw [h'] at h ⊢
  · exact absurd h hn
  · exact finishCheck_ok h

theorem commandGuard_ok {s : State} (h : (commandGuard s).1 = .ok) :
    s.identified = true ∧ s.tag = .none ∧ (commandGuard s).2 = s := by
  rw [commandGuard_eq] at h ⊢
  dsimp only at h ⊢
  split at h
  · rename_i hc; exact ⟨hc.1, hc.2, rfl⟩
  · cases h

theorem issueCommand_effects (op : AtaOpcode) {s : State} (hs : s.tag = .none) (ho : (tagOf op).isData = false) :
    Effects m s (issueCommand op s).2 := by
  have h₁ : IoRun s (portWrite8 .command (opcodeByte op) s) := portWrite8_ioRun _ _ _
  exact (h₁.effects.tail (.issue _ op (h₁.tag_eq.trans hs) ho)).trans (immediateErrorCheck_effects _)

/-- After a command was issued without an immediate error its tag is active. -/
theorem issueCommand_ok_tag {op : AtaOpcode} {s : State} (h : (issueCommand op s).1 = .ok) :
    (issueCommand op s).2.tag = tagOf op ∧ (issueCommand op s).2.intEnabled = s.intEnabled := by
  unfold issueCommand at h ⊢
  rcases immediateErrorCheck_cases ((portWrite8 .command (opcodeByte op) s).setTag (tagOf op)) with
    ⟨_, hi⟩ | ⟨hc, _⟩
  · exact ⟨hi.tag_eq, hi.intEnabled_eq⟩
  · rw [hc] at h; cases h

theorem flushCommand_effects (s : State) : Effects m s (flushCommand s).2 := by
  refine andThen_effects (by rw [commandGuard_eq]; exact .refl) fun hg => ?_
  obtain ⟨_, ht, he⟩ := commandGuard_ok hg
  rw [he]
  have hr := checkReady_ioRun s
  refine andThen_effects hr.effects fun _ => ?_
  refine andThen_effects (issueCommand_effects _ (hr.tag_eq.trans ht) rfl) fun _ => ?_
  split
  · exact .refl
  · exact pollFinish_effects _

theorem setMultipleCommand_effects (v : Byte) (s : State) : Effects m s (setMultipleCommand v s).2 := by
  refine andThen_effects (by rw [commandGuard_eq]; exact .refl) fun hg => ?_
  obtain ⟨_, ht, he⟩ := commandGuard_ok hg
  rw [he]
  split
  · exact .refl
  · split
    · exact .refl
    · have hr := checkReady_ioRun s
      refine andThen_effects hr.effects fun _ => ?_
      have hw := portWrite8_ioRun .count v (checkReady s).2
      refine andThen_effects (hw.effects.trans
        (issueCommand_effects _ ((hr.trans hw).tag_eq.trans ht) rfl)) fun _ => ?_
      refine andThen_effects (pollFinish_effects _) fun hf => ?_
      exact (Effect.currentMultiple _ _ (by rw [pollFinish_ok hf]; rfl)).single

/-! ### Identification -/

theorem identBurst_effects {s : State} (hs : s.tag.isMultiple = false) : Effects m s (identBurst s).2 := by
  have hd := dataReads_ioRun s.cfg.identWords.count s
  unfold identBurst
  generalize dataReads s.cfg.identWords.count s = r at hd ⊢
  have hb : Effects m s (r.2.setIdentBuf (identBufOf r.1)) := hd.effects.tail (.identBuf _ _)
  have ht : (r.2.setIdentBuf (identBufOf r.1)).tag.isMultiple = false := by
    rw [State.setIdentBuf_tag, hd.tag_eq]; exact hs
  dsimp only
  generalize r.2.setIdentBuf (identBufOf r.1) = u at hb ht ⊢
  split
  · rename_i f hf
    exact hb.tail (.commit u f hf ht)
  · exact hb.tail (.unidentify u)

theorem identifyData_effects {s : State} (hs : s.tag.isMultiple = false) : Effects m s (identifyData s).2 := by
  have hr := portRead8_ioRun .altStatus s
  simp only [identifyData]
  split
  · exact hr.effects
  · split
    · exact hr.effects.tail (.endCommand _)
    · exact hr.effects.trans (identBurst_effects (by rw [hr.tag_eq]; exact hs))

theorem identifyFinish_effects (p : ResultCode) (s : State) : Effects m s (identifyFinish p s).2 :=
  andThen_effects ((wait400_ioRun s).trans (pollBusy_ioRun _ _)).effects fun _ => finishCheck_effects _

theorem identifyPolled_effects {s : State} (hs : s.tag.isMultiple = false) : Effects m s (identifyPolled s).2 := by
  have hp := pollBusy_ioRun s.cfg.pollBudget s
  refine andThen_effects hp.effects fun _ => ?_
  have hd : Effects m (pollBusy s.cfg.pollBudget s).2 (identifyData (pollBusy s.cfg.pollBudget s).2).2 :=
    identifyData_effects (by rw [hp.tag_eq]; exact hs)
  dsimp only
  split
  · exact hd
  · split
    · exact hd
    · exact hd.trans (identifyFinish_effects _ _)

theorem identifyCommand_effects (s : State) : Effects m s (identifyCommand s).2 := by
  have hr := portRead8_ioRun .altStatus s
  unfold identifyCommand
  split
  · exact .refl
  · rename_i hn
    have ht : s.tag = .none := Decidable.not_not.mp hn
    dsimp only
    split
    · exact hr.effects
    · refine andThen_effects (hr.effects.trans (issueCommand_effects _ (hr.tag_eq.trans ht) rfl)) fun hc => ?_
      split
      · exact .refl
      · exact identifyPolled_effects (by rw [(issueCommand_ok_tag hc).1]; rfl)

/-- In polled mode an IDENTIFY that succeeds has ended. -/
theorem identifyCommand_ok_tag {s : State} (hi : s.intEnabled = false) (h : (identifyCommand s).1 = .ok) :
    (identifyCommand s).2.tag = .none := by
  have hr := portRead8_ioRun .altStatus s
  unfold identifyCommand at h ⊢
  split at h
  · cases h
  · rename_i hn
    simp only [hn, if_false] at h ⊢
    split at h
    · cases h
    · rename_i hq
      rw [if_neg hq] at ⊢
      rcases andThen_cases (issueCommand .identify (portRead8 .altStatus s).2)
        (fun s1 => if s1.intEnabled = true then (.ok, s1) else identifyPolled s1) with ⟨hn', h'⟩ | ⟨hc, h'⟩ <;>
        rw [h'] at h ⊢
      · exact absurd h hn'
      · have hie : (issueCommand .identify (portRead8 .altStatus s).2).2.intEnabled = false := by
          rw [(issueCommand_ok_tag hc).2, hr.intEnabled_eq, hi]
        simp only [hie, Bool.false_eq_true, if_false] at h ⊢
        generalize (issueCommand .identify (portRead8 .altStatus s).2).2 = u at h ⊢
        unfold identifyPolled at h ⊢
        rcases andThen_cases (pollBusy u.cfg.pollBudget u) (fun s1 =>
            let p := identifyData s1
            if p.1 = .busyRetry then p
            else if p.2.tag = .none then p
            else identifyFinish p.1 p.2) with ⟨hn', h'⟩ | ⟨_, h'⟩ <;> rw [h'] at h ⊢
        · exact absurd h hn'
        · dsimp only at h ⊢
          split at h
          · rename_i hb; rw [hb] at h; cases h
          · rename_i hb
            rw [if_neg hb]
            split at h
            · rename_i ht; rw [if_pos ht]; exact ht
            · rename_i ht
              rw [if_neg ht]
              generalize identifyData (pollBusy u.cfg.pollBudget u).2 = p at h ⊢
              unfold identifyFinish at h ⊢
              dsimp only at h ⊢
              rcases andThen_cases (pollBusy (wait400 p.2).cfg.pollBudget (wait400 p.2)) (fun s2 =>
                let f := finishCheck s2
                (if p.1 = .ok then f.1 else p.1, f.2)) with ⟨hn', h'⟩ | ⟨_, h'⟩ <;> rw [h'] at h ⊢
              · exact absurd h hn'
              · dsimp only at h ⊢
                split at h
                · exact finishCheck_ok h
                · rename_i hne; exact absurd h hne

/-! ### Transfers -/

theorem moveIn_effects (hm : m) (n a : Nat) {s t : State} (hs : s.tag.isRead = true) (h : moveIn n a s = .ok t) :
    Effects m s t ∧ t.tag = s.tag ∧ t.desc = s.desc ∧ t.cfg = s.cfg := by
  induction n generalizing a s with
  | zero => cases h; exact ⟨.refl, rfl, rfl, rfl⟩
  | succ n ih =>
    simp only [moveIn] at h
    split at h
    · cases h
    · rename_i s1 hw
      have hr := portRead16_ioRun .data s
      have ht : s1.tag = s.tag ∧ s1.desc = s.desc ∧ s1.cfg = s.cfg := by
        obtain ⟨_, _, rfl⟩ := memWrite16_eq_ok hw
        exact ⟨hr.tag_eq, hr.desc_eq, hr.cfg_eq⟩
      obtain ⟨h₁, h₂, h₃, h₄⟩ := ih _ (by rw [ht.1]; exact hs) h
      exact ⟨(hr.effects.tail (.memWrite _ _ hm (by rw [hr.tag_eq]; exact hs) hw)).trans h₁, h₂.trans ht.1,
        h₃.trans ht.2.1, h₄.trans ht.2.2⟩

theorem moveOut_ioRun (n a : Nat) {s t : State} (h : moveOut n a s = .ok t) : IoRun s t := by
  induction n generalizing a s with
  | zero => cases h; exact .refl _
  | succ n ih =>
    simp only [moveOut] at h
    split at h
    · cases h
    · rename_i r hr
      obtain ⟨_, _, _, h2⟩ := memRead16_eq_ok hr
      have h₁ : IoRun s r.2 := ⟨s.script, s.draws, [.memRead a r.1], h2⟩
      exact (h₁.trans (portWrite16_ioRun _ _ _)).trans (ih _ h)

theorem moveUnit_effects (hm : m) {s t : State} (h : moveUnit s = .ok t) :
    Effects m s t ∧ t.tag = s.tag ∧ t.desc = s.desc ∧ t.cfg = s.cfg := by
  unfold moveUnit at h
  split at h
  · rename_i hr; exact moveIn_effects hm _ _ hr h
  · have := moveOut_ioRun _ _ h
    exact ⟨this.effects, this.tag_eq, this.desc_eq, this.cfg_eq⟩

theorem transfer_effects (hm : m) (s : State) : EffectsMem m s (transfer s) := by
  have hr := portRead8_ioRun .altStatus s
  unfold transfer
  split
  · exact EffectsMem.of_ok .refl
  · rename_i hd
    have hdata : s.tag.isData = true := by
      cases h : s.tag.isData <;> simp [h] at hd ⊢
    dsimp only
    split
    · exact EffectsMem.of_ok hr.effects
    · split
      · exact EffectsMem.of_ok (hr.effects.tail (.endCommand _))
      · split
        · intro o ho; cases ho
        · rename_i s1 hmv
          obtain ⟨h₁, h₂, _, _⟩ := moveUnit_effects hm hmv
          exact EffectsMem.of_ok ((hr.effects.trans h₁).tail
            (.advance _ _ _ (by rw [h₂, hr.tag_eq]; exact hdata)))

theorem pollLoop_effects (hm : m) (n : Nat) (s : State) : EffectsMem m s (pollLoop n s) := by
  induction n generalizing s with
  | zero => exact EffectsMem.of_ok .refl
  | succ n ih =>
    refine andThenMem_effects (pollBusy_ioRun _ _).effects fun _ => ?_
    refine memAndThen_effects (transfer_effects hm _) fun u _ => ?_
    split
    · exact EffectsMem.of_ok ((wait400_ioRun u).effects.trans (pollFinish_effects _))
    · exact EffectsMem.after (wait400_ioRun u).effects (ih _)

theorem issueImage_effects (dir : Dir) (buf : Addr) (start count : DWord) {s : State} (hs : s.tag = .none) :
    Effects m s (issueImage (selectOpcode s.desc dir) buf start count s) := by
  have h₁ := (portWrites_ioRun (imageRW s.desc.hasLba48 s.selectedDrive start count) s).trans
    (portWrite8_ioRun .command (opcodeByte (selectOpcode s.desc dir)) _)
  have h₂ := Effect.issueRW (memory := m) _ dir buf.toNat count (h₁.tag_eq.trans hs)
  rw [h₁.desc_eq] at h₂
  exact h₁.effects.tail h₂

theorem issueRW_effects (hm : m) (dir : Dir) (buf : Addr) (start count : DWord) (s : State) :
    EffectsMem m s (issueRW dir buf start count s) := by
  refine andThenMem_effects (by rw [commandGuard_eq]; exact .refl) fun hg => ?_
  obtain ⟨_, ht, he⟩ := commandGuard_ok hg
  rw [he]
  split
  · exact EffectsMem.of_ok .refl
  · have hr := checkReady_ioRun s
    refine andThenMem_effects hr.effects fun _ => ?_
    refine andThenMem_effects ((issueImage_effects dir buf start count (hr.tag_eq.trans ht)).trans
      (immediateErrorCheck_effects _)) fun _ => ?_
    split
    · exact EffectsMem.of_ok .refl
    · exact pollLoop_effects hm _ _

theorem issueNamed_effects (hm : m) (op : AtaOpcode) (dir : Dir) (buf : Addr) (start count : DWord) (s : State) :
    EffectsMem m s (issueNamed op dir buf start count s) := by
  unfold issueNamed
  split
  · exact issueRW_effects hm _ _ _ _ s
  · exact EffectsMem.of_ok .refl

/-! ### Interrupts and bring-up -/

theorem completeUnit_effects {s : State} {r : OpOut} (h : Effects m s r.2) : Effects m s (completeUnit r).2 := by
  unfold completeUnit
  split
  · have hs := (wait400_ioRun r.2).trans (portRead8_ioRun .altStatus _)
    simp only [completionCheck]
    split
    · exact (h.trans hs.effects).tail (.endCommand _)
    · exact h.trans hs.effects
  · exact h

theorem dispatch_effects (hm : m) (st : Byte) (s : State) : EffectsMem m s (dispatch st s) := by
  unfold dispatch
  split
  · split
    · intro o ho; cases ho
    · rename_i r hr
      exact EffectsMem.of_ok (completeUnit_effects (transfer_effects hm s r hr))
  · refine EffectsMem.of_ok ?_
    unfold dispatchNoUnit
    split
    · exact .refl
    · split
      all_goals first
        | exact .refl
        | exact completeUnit_effects .refl
        | (rename_i ht; exact completeUnit_effects (identifyData_effects (by rw [ht]; rfl)))

theorem negotiateMultiple_effects {s : State} (hs : s.tag.isMultiple = false) :
    Effects m s (negotiateMultiple s).2 := by
  unfold negotiateMultiple
  split
  · exact (Effect.currentMultiple _ _ hs).single
  · exact setMultipleCommand_effects _ s

theorem confirmAndDrain_ioRun (s : State) : IoRun s (confirmAndDrain s).2 := by
  have hr := portRead8_ioRun .drvHead s
  simp only [confirmAndDrain]
  split
  · exact hr
  · exact hr.trans (drain_ioRun _)

/-- Drive select changes neither the mode nor the tag. -/
theorem driveSelect_keeps (d : BitVec 1) (s : State) :
    (driveSelect d s).2.tag = s.tag ∧ (driveSelect d s).2.intEnabled = s.intEnabled := by
  have hr := portRead8_ioRun .altStatus s
  simp only [driveSelect]
  split
  · exact ⟨rfl, rfl⟩
  · split
    · exact ⟨hr.tag_eq, hr.intEnabled_eq⟩
    · have h := ((hr.trans (portWrite8_ioRun .drvHead (drvHeadByte d 0#4) _)).trans (wait400_ioRun _)).trans
        (pollBusy_ioRun (wait400 (portWrite8 .drvHead (drvHeadByte d 0#4) (portRead8 .altStatus s).2)).cfg.selectBudget _)
      generalize pollBusy _ (wait400 (portWrite8 .drvHead (drvHeadByte d 0#4) (portRead8 .altStatus s).2)) = r at h ⊢
      rcases andThen_cases r (fun s2 =>
        let q := portRead8 .altStatus s2
        if statusFailed q.1 = true then (.deviceError, q.2) else (.ok, q.2.setSelectedDrive d)) with
        ⟨_, h'⟩ | ⟨_, h'⟩ <;> rw [h']
      · exact ⟨h.tag_eq, h.intEnabled_eq⟩
      · have hq := h.trans (portRead8_ioRun .altStatus r.2)
        dsimp only
        split
        · exact ⟨hq.tag_eq, hq.intEnabled_eq⟩
        · exact ⟨hq.tag_eq, hq.intEnabled_eq⟩

theorem reset_ok_keeps {s : State} (h : (reset s).1 = .ok) : (reset s).2.intEnabled = s.intEnabled := by
  rcases reset_cases s with ⟨hc, _⟩ | ⟨hc, _⟩ | ⟨_, u, hu, he⟩
  · rw [hc] at h; cases h
  · rcases hc with hc | hc <;> (rw [hc] at h; cases h)
  · rw [he]; exact hu.intEnabled_eq

theorem bringUp_effects (s : State) : Effects m s (bringUp s).2 := by
  have h₀ : Effects m s ((s.setIntEnabled false).setIdentified false) :=
    (Effect.intEnabled s false).single.tail (.unidentify _)
  refine andThen_effects (h₀.trans (reset_effects _)) fun hr => ?_
  have hi := reset_ok_keeps hr
  generalize (reset ((s.setIntEnabled false).setIdentified false)).2 = u at hi ⊢
  refine andThen_effects (driveSelect_effects _ u) fun _ => ?_
  have hk := driveSelect_keeps u.cfg.driveIndex u
  generalize (driveSelect u.cfg.driveIndex u).2 = v at hk ⊢
  refine andThen_effects (identifyCommand_effects v) fun hid => ?_
  have ht := identifyCommand_ok_tag (hk.2.trans hi) hid
  refine andThen_effects (negotiateMultiple_effects (by rw [ht]; rfl)) fun _ => ?_
  exact (confirmAndDrain_ioRun _).effects

theorem interruptMode_effects (e : Bool) (s : State) : Effects m s (interruptMode e s).2 := by
  unfold interruptMode
  split
  · exact .refl
  · exact (Effect.intEnabled s e).single.trans
      ((portWrite8_ioRun _ _ _).trans (lineMask_ioRun _ _)).effects

theorem finish_effects {s t : State} {r : OpOut} (hr : Effects m s r.2) (ht : finish r = .next t) : Effects m s t := by
  cases ht
  exact hr.tail (.result _ _ _)

theorem finishMem_effects {s t : State} {r : MemOut} (hr : EffectsMem m s r) (ht : finishMem r = .next t) :
    Effects m s t := by
  cases r with
  | error f => cases ht
  | ok o => exact finish_effects (hr o rfl) ht

theorem onInterrupt_effects (hm : m) {s t : State} (ht : execOnInterrupt s = .next t) : Effects m s t := by
  simp only [execOnInterrupt] at ht
  split at ht
  · cases ht
  · rename_i r hr
    have h₁ : IoRun s (interruptEntry s).2 := portRead8_ioRun .status s
    have h₂ := h₁.effects.trans (dispatch_effects hm _ _ r hr)
    exact finish_effects (h₂.tail (.io (IoRun.emit r.2 _))) ht

end

/-- Whatever an instruction does is a chain of effects; only the transfers and the dispatcher touch caller memory. -/
theorem exec_effects {i : Instr} {s t : State} (ht : exec i s = .next t) : Effects (touchesMemory i = true) s t := by
  cases i with
  | identifyDevice => exact finish_effects (identifyCommand_effects s) ht
  | readSectors b st ct => exact finishMem_effects (issueNamed_effects rfl _ _ _ _ _ s) ht
  | readSectorsExt b st ct => exact finishMem_effects (issueNamed_effects rfl _ _ _ _ _ s) ht
  | readMultiple b st ct => exact finishMem_effects (issueNamed_effects rfl _ _ _ _ _ s) ht
  | readMultipleExt b st ct => exact finishMem_effects (issueNamed_effects rfl _ _ _ _ _ s) ht
  | writeSectors b st ct => exact finishMem_effects (issueNamed_effects rfl _ _ _ _ _ s) ht
  | writeSectorsExt b st ct => exact finishMem_effects (issueNamed_effects rfl _ _ _ _ _ s) ht
  | writeMultiple b st ct => exact finishMem_effects (issueNamed_effects rfl _ _ _ _ _ s) ht
  | writeMultipleExt b st ct => exact finishMem_effects (issueNamed_effects rfl _ _ _ _ _ s) ht
  | flushCache => exact finish_effects (flushCommand_effects s) ht
  | setMultipleModeCommand v => exact finish_effects (setMultipleCommand_effects v s) ht
  | initializeBlock => exact finish_effects (bringUp_effects s) ht
  | read b st ct => exact finishMem_effects (issueRW_effects rfl _ _ _ _ s) ht
  | write b st ct => exact finishMem_effects (issueRW_effects rfl _ _ _ _ s) ht
  | flush => exact finish_effects (flushCommand_effects s) ht
  | setInterruptMode e => exact finish_effects (interruptMode_effects e s) ht
  | getError => cases ht; exact (portRead8_ioRun .error s).effects.tail (.result _ _ _)
  | identify => exact finish_effects (identifyCommand_effects s) ht
  | selectDrive d => exact finish_effects (driveSelect_effects d s) ht
  | softwareReset => exact finish_effects (reset_effects s) ht
  | waitBusy b => exact finish_effects (waitBit_ioRun _ _ _ s).effects ht
  | waitDataRequest b => exact finish_effects (waitBit_ioRun _ _ _ s).effects ht
  | waitDeviceReady b => exact finish_effects (waitBit_ioRun _ _ _ s).effects ht
  | isBusy => cases ht; exact (portRead8_ioRun .altStatus s).effects.tail (.result _ _ _)
  | isDataRequestPending => cases ht; exact (portRead8_ioRun .altStatus s).effects.tail (.result _ _ _)
  | hasError => cases ht; exact (portRead8_ioRun .altStatus s).effects.tail (.result _ _ _)
  | wait400ns => exact finish_effects (wait400_ioRun s).effects ht
  | transferUnit => exact finishMem_effects (transfer_effects rfl s) ht
  | setMultipleMode v => exact finish_effects (setMultipleCommand_effects v s) ht
  | onInterrupt => exact onInterrupt_effects rfl ht

end Sys2Proof.Machine
end

