-- ==== Sys2Proof/Laws/Answers.lean ====
section
/-! SUPPORT. What the primitives compute, in terms of the device's answers: each is a run `State.ranIo` of a number of
port reads and a list of events, and runs compose. -/

namespace Sys2Proof.Machine

theorem State.ranIo_zero (s : State) : s.ranIo 0 [] = s := by simp [State.ranIo]

/-- Two runs, one after the other. -/
theorem State.ranIo_ranIo (s : State) (a b : Nat) (e f : List Event) :
    (s.ranIo a e).ranIo b f = s.ranIo (a + b) (e ++ f) := by
  simp [State.ranIo, List.drop_drop, Nat.add_assoc]

theorem State.nth_ranIo (s : State) (a k : Nat) (e : List Event) : (s.ranIo a e).nth k = s.nth (a + k) := by
  simp [State.nth, State.ranIo, List.getElem?_drop, Nat.add_assoc]

theorem State.nextByte_ranIo (s : State) (a k : Nat) (e : List Event) :
    (s.ranIo a e).nextByte k = s.nextByte (a + k) := by
  simp [State.nextByte, State.nth_ranIo]

theorem State.nextWords_ranIo (s : State) (a k n : Nat) (e : List Event) :
    (s.ranIo a e).nextWords k n = s.nextWords (a + k) n := by
  simp [State.nextWords, State.nth_ranIo, Nat.add_assoc]

theorem State.altReads_ranIo (s : State) (a k n : Nat) (e : List Event) :
    (s.ranIo a e).altReads k n = s.altReads (a + k) n := by
  simp [State.altReads, State.nextByte_ranIo, Nat.add_assoc]

theorem State.attempts_ranIo (s : State) (a k n : Nat) (e : List Event) :
    (s.ranIo a e).attempts k n = s.attempts (a + k) n := by
  simp [State.attempts, State.altReads_ranIo]

theorem State.dataReads_ranIo (s : State) (a k n : Nat) (e : List Event) :
    (s.ranIo a e).dataReads k n = s.dataReads (a + k) n := by
  simp [State.dataReads, State.nextWords_ranIo]

theorem State.altReads_zero (s : State) (k : Nat) : s.altReads k 0 = [] := rfl

theorem State.altReads_one (s : State) (k : Nat) :
    s.altReads k 1 = [.portRead8 (portAddr s.cfg .altStatus) (s.nextByte k)] := rfl

/-- The first of the reads, and the rest. -/
theorem State.altReads_succ (s : State) (k n : Nat) :
    s.altReads k (n + 1) = .portRead8 (portAddr s.cfg .altStatus) (s.nextByte k) :: s.altReads (k + 1) n := by
  simp [State.altReads, List.range_succ_eq_map, Nat.add_comm, Nat.add_left_comm]

theorem State.altReads_add (s : State) (k a b : Nat) :
    s.altReads k (a + b) = s.altReads k a ++ s.altReads (k + a) b := by
  induction a generalizing k with
  | zero => simp [State.altReads_zero]
  | succ a ih =>
    rw [Nat.succ_add, State.altReads_succ, State.altReads_succ, ih, List.cons_append, Nat.add_assoc, Nat.add_comm 1 a]

theorem State.attempts_one (s : State) (k : Nat) :
    s.attempts k 1 = [.portRead8 (portAddr s.cfg .altStatus) (s.nextByte k)] := rfl

/-- The first attempt, the delay, and the rest. -/
theorem State.attempts_succ_succ (s : State) (k n : Nat) :
    s.attempts k (n + 2) =
      .portRead8 (portAddr s.cfg .altStatus) (s.nextByte k) :: .ioDelay :: s.attempts (k + 1) (n + 1) := by
  rw [State.attempts, State.altReads_succ, State.altReads_succ, State.attempts, State.altReads_succ]
  rfl

theorem State.nextWords_succ (s : State) (k n : Nat) :
    s.nextWords k (n + 1) = s.nth k :: s.nextWords (k + 1) n := by
  simp [State.nextWords, List.range_succ_eq_map, Nat.add_comm, Nat.add_left_comm]

theorem State.nextWords_length (s : State) (k n : Nat) : (s.nextWords k n).length = n := by
  simp [State.nextWords]

theorem State.answer_eq (s : State) : s.answer = s.nth 0 := by
  unfold State.answer State.nth
  cases s.script <;> simp

/-- A byte read: the next answer, one event. -/
theorem portRead8_eq (p : Port) (s : State) :
    portRead8 p s = (s.nextByte 0, s.ranIo 1 [.portRead8 (portAddr s.cfg p) (s.nextByte 0)]) := by
  simp [portRead8, State.nextByte, State.answer_eq, State.ranIo, State.answered, State.emit]

/-- A word read: the next answer, one event. -/
theorem portRead16_eq (p : Port) (s : State) :
    portRead16 p s = (s.nth 0, s.ranIo 1 [.portRead16 (portAddr s.cfg p) (s.nth 0)]) := by
  simp [portRead16, State.answer_eq, State.ranIo, State.answered, State.emit]

theorem emit_eq (s : State) (e : Event) : s.emit e = s.ranIo 0 [e] := by
  simp [State.ranIo, State.emit]

theorem portWrite8_eq (p : Port) (v : Byte) (s : State) :
    portWrite8 p v s = s.ranIo 0 [.portWrite8 (portAddr s.cfg p) v] := emit_eq _ _

theorem portWrite16_eq (p : Port) (v : Word) (s : State) :
    portWrite16 p v s = s.ranIo 0 [.portWrite16 (portAddr s.cfg p) v] := emit_eq _ _

theorem portWrites_eq (ws : List (Port × Byte)) (s : State) :
    portWrites ws s = s.ranIo 0 (imageEvents s.cfg ws) := by
  induction ws generalizing s with
  | nil => exact (State.ranIo_zero s).symm
  | cons w ws ih =>
    have h := ih (portWrite8 w.1 w.2 s)
    rw [portWrite8_eq, State.ranIo_ranIo] at h
    simpa [portWrites, portWrite8_eq, imageEvents] using h

theorem ioDelays_eq (n : Nat) (s : State) : ioDelays n s = s.ranIo 0 (List.replicate n .ioDelay) := by
  induction n generalizing s with
  | zero => exact (State.ranIo_zero s).symm
  | succ n ih =>
    rw [ioDelays, ih, ioDelay, emit_eq, State.ranIo_ranIo]
    rfl

theorem altStatusReads_eq (n : Nat) (s : State) : altStatusReads n s = s.ranIo n (s.altReads 0 n) := by
  induction n generalizing s with
  | zero => exact (State.ranIo_zero s).symm
  | succ n ih =>
    rw [altStatusReads, ih, portRead8_eq, State.ranIo_ranIo, State.altReads_succ, State.altReads_ranIo,
      Nat.add_comm 1 n]
    rfl

theorem dataReads_eq (n : Nat) (s : State) :
    dataReads n s = (s.nextWords 0 n, s.ranIo n (s.dataReads 0 n)) := by
  induction n generalizing s with
  | zero => simp [dataReads, State.nextWords, State.dataReads, State.ranIo_zero]
  | succ n ih =>
    rw [dataReads]
    simp only [portRead16_eq, ih, State.ranIo_ranIo, State.nextWords_ranIo, State.dataReads_ranIo]
    simp [State.dataReads, State.nextWords_succ, Nat.add_comm 1 n]

end Sys2Proof.Machine
end

