-- ==== Sys2Proof/Laws/Encoding.lean ====
section
/-! SUPPORT. The fields of a request word come back out of it as they were put in. -/

namespace Sys2Proof

theorem RequestFields.pack_code (f : RequestFields) : f.pack.extractLsb' 0 8 = f.code := by
  apply BitVec.eq_of_getLsbD_eq
  intro i hi
  simp only [RequestFields.pack, BitVec.getLsbD_extractLsb', BitVec.getLsbD_append]
  simp [hi]

theorem RequestFields.pack_kind (f : RequestFields) : f.pack.extractLsb' 8 8 = f.kind := by
  apply BitVec.eq_of_getLsbD_eq
  intro i hi
  simp only [RequestFields.pack, BitVec.getLsbD_extractLsb', BitVec.getLsbD_append]
  simp [hi, show ¬ 8 + i < 8 by omega]

theorem RequestFields.pack_arg (f : RequestFields) : f.pack.extractLsb' 16 64 = f.arg := by
  apply BitVec.eq_of_getLsbD_eq
  intro i hi
  simp only [RequestFields.pack, BitVec.getLsbD_extractLsb', BitVec.getLsbD_append]
  simp [hi, show ¬ 16 + i < 8 by omega, show ¬ 16 + i - 8 < 8 by omega, show 16 + i - 8 - 8 = i by omega]

theorem RequestFields.pack_start (f : RequestFields) : f.pack.extractLsb' 80 32 = f.start := by
  apply BitVec.eq_of_getLsbD_eq
  intro i hi
  simp only [RequestFields.pack, BitVec.getLsbD_extractLsb', BitVec.getLsbD_append]
  simp [hi, show ¬ 80 + i < 8 by omega, show ¬ 80 + i - 8 < 8 by omega, show ¬ 80 + i - 8 - 8 < 64 by omega,
    show 80 + i - 8 - 8 - 64 = i by omega]

theorem RequestFields.pack_count (f : RequestFields) : f.pack.extractLsb' 112 32 = f.count := by
  apply BitVec.eq_of_getLsbD_eq
  intro i hi
  simp only [RequestFields.pack, BitVec.getLsbD_extractLsb', BitVec.getLsbD_append]
  simp [hi, show ¬ 112 + i < 8 by omega, show ¬ 112 + i - 8 < 8 by omega, show ¬ 112 + i - 8 - 8 < 64 by omega,
    show ¬ 112 + i - 8 - 8 - 64 < 32 by omega, show 112 + i - 8 - 8 - 64 - 32 = i by omega]

/-- Cutting a packed word gives the fields back. -/
theorem RequestFields.split_pack (f : RequestFields) : RequestWord.split f.pack = f := by
  simp [RequestWord.split, RequestFields.pack_code, RequestFields.pack_kind, RequestFields.pack_arg,
    RequestFields.pack_start, RequestFields.pack_count]

/-- Packing the fields of a word gives the word back: no bit lies outside the fields. -/
theorem RequestWord.pack_split (w : RequestWord) : RequestFields.pack (RequestWord.split w) = w := by
  apply BitVec.eq_of_getLsbD_eq
  intro i hi
  simp only [RequestFields.pack, RequestWord.split, BitVec.getLsbD_extractLsb', BitVec.getLsbD_append]
  split
  · rename_i h; simp [h]
  · split
    · rename_i h; simp [h]; congr 1; omega
    · split
      · rename_i h; simp [h]; congr 1; omega
      · split
        · rename_i h; simp [h]; congr 1; omega
        · rename_i h₁ h₂ h₃ h₄
          have : i - 8 - 8 - 64 - 32 < 32 := by omega
          simp [this]; congr 1; omega

theorem decode_encode_fields (i : Instr) : decode (encode i) = i.fields.decode := by
  unfold decode encode
  rw [RequestFields.split_pack]

end Sys2Proof
end

