-- ==== Sys2Proof/Laws/PerInstr.lean ====
section
/-! SUPPORT. Statements made per instruction: one lemma per constructor of `Instr`. -/

namespace Sys2Proof.Laws

/-- The encoded word of an instruction carries its row of spec/opcode_table.json: the code in bits 7..0 and the kind
byte in bits 15..8. -/
def EncodedRow.Statement (i : Instr) : Prop :=
  (encode i).extractLsb' 0 8 = i.code ∧ (encode i).extractLsb' 8 8 = i.kind

theorem encodedRow_all (i : Instr) : EncodedRow.Statement i :=
  ⟨RequestFields.pack_code i.fields, RequestFields.pack_kind i.fields⟩

theorem EncodedRow.identifyDevice : EncodedRow.Statement (.identifyDevice) := encodedRow_all _
theorem EncodedRow.readSectors (buf : Addr) (start count : DWord) : EncodedRow.Statement (.readSectors buf start count) := encodedRow_all _
theorem EncodedRow.readSectorsExt (buf : Addr) (start count : DWord) : EncodedRow.Statement (.readSectorsExt buf start count) := encodedRow_all _
theorem EncodedRow.readMultiple (buf : Addr) (start count : DWord) : EncodedRow.Statement (.readMultiple buf start count) := encodedRow_all _
theorem EncodedRow.readMultipleExt (buf : Addr) (start count : DWord) : EncodedRow.Statement (.readMultipleExt buf start count) := encodedRow_all _
theorem EncodedRow.writeSectors (buf : Addr) (start count : DWord) : EncodedRow.Statement (.writeSectors buf start count) := encodedRow_all _
theorem EncodedRow.writeSectorsExt (buf : Addr) (start count : DWord) : EncodedRow.Statement (.writeSectorsExt buf start count) := encodedRow_all _
theorem EncodedRow.writeMultiple (buf : Addr) (start count : DWord) : EncodedRow.Statement (.writeMultiple buf start count) := encodedRow_all _
theorem EncodedRow.writeMultipleExt (buf : Addr) (start count : DWord) : EncodedRow.Statement (.writeMultipleExt buf start count) := encodedRow_all _
theorem EncodedRow.flushCache : EncodedRow.Statement (.flushCache) := encodedRow_all _
theorem EncodedRow.setMultipleModeCommand (m : Byte) : EncodedRow.Statement (.setMultipleModeCommand m) := encodedRow_all _
theorem EncodedRow.initializeBlock : EncodedRow.Statement (.initializeBlock) := encodedRow_all _
theorem EncodedRow.read (buf : Addr) (start count : DWord) : EncodedRow.Statement (.read buf start count) := encodedRow_all _
theorem EncodedRow.write (buf : Addr) (start count : DWord) : EncodedRow.Statement (.write buf start count) := encodedRow_all _
theorem EncodedRow.flush : EncodedRow.Statement (.flush) := encodedRow_all _
theorem EncodedRow.setInterruptMode (enable : Bool) : EncodedRow.Statement (.setInterruptMode enable) := encodedRow_all _
theorem EncodedRow.getError : EncodedRow.Statement (.getError) := encodedRow_all _
theorem EncodedRow.identify : EncodedRow.Statement (.identify) := encodedRow_all _
theorem EncodedRow.selectDrive (dev1 : BitVec 1) : EncodedRow.Statement (.selectDrive dev1) := encodedRow_all _
theorem EncodedRow.softwareReset : EncodedRow.Statement (.softwareReset) := encodedRow_all _
theorem EncodedRow.waitBusy (target : Bool) : EncodedRow.Statement (.waitBusy target) := encodedRow_all _
theorem EncodedRow.waitDataRequest (target : Bool) : EncodedRow.Statement (.waitDataRequest target) := encodedRow_all _
theorem EncodedRow.waitDeviceReady (target : Bool) : EncodedRow.Statement (.waitDeviceReady target) := encodedRow_all _
theorem EncodedRow.isBusy : EncodedRow.Statement (.isBusy) := encodedRow_all _
theorem EncodedRow.isDataRequestPending : EncodedRow.Statement (.isDataRequestPending) := encodedRow_all _
theorem EncodedRow.hasError : EncodedRow.Statement (.hasError) := encodedRow_all _
theorem EncodedRow.wait400ns : EncodedRow.Statement (.wait400ns) := encodedRow_all _
theorem EncodedRow.transferUnit : EncodedRow.Statement (.transferUnit) := encodedRow_all _
theorem EncodedRow.setMultipleMode (m : Byte) : EncodedRow.Statement (.setMultipleMode m) := encodedRow_all _
theorem EncodedRow.onInterrupt : EncodedRow.Statement (.onInterrupt) := encodedRow_all _

end Sys2Proof.Laws
end

