-- ==== Sys2Proof/Tests/Slice0.lean ====
section
/-! SUPPORT. The model's own tests: decoding of written-out words, one or two small runs per instruction with the expected
results of spec/95_test_vectors.md (its vector named in brackets) or worked from the cited rule by hand, and a witness for
the hypotheses of every statement that has some. -/

namespace Sys2Proof.Tests

open Sys2Proof Sys2Proof.Machine

set_option Elab.async false

/-! ## Small machines -/

/-- Small budgets, so that a wait can run out; `wait400Reads = 2`, so a settle delay is two reads. -/
def smallCfg : Config where
  waitBudget := 3
  pollBudget := 3
  selectBudget := 2
  wait400Reads := 2
  resetHoldDelays := 2
  resetPollBudget := 3
  drainBudget := 2

/-- The machine after reset, with small budgets and a device that answers `ws`. -/
def bench (ws : List Word) : State := { State.reset with cfg := smallCfg, script := ws }

/-- A descriptor with sectors of two words; `lba48` and the negotiated block size are free. -/
def smallDesc (lba48 : Bool) (block : Byte) : Descriptor :=
  { Descriptor.reset with
    sectorSize := 2#32
    lowerMaxNumSectors := 1000#32
    hasLba48 := lba48
    hasMultipleCmd := decide (block ≠ 0#8)
    maxMultipleSectorSize := if block = 0#8 then 0#8 else 16#8
    currentMultipleSectorSize := block }

/-- An identified block. -/
def disk (lba48 : Bool) (block : Byte) (ws : List Word) : State :=
  { bench ws with desc := smallDesc lba48 block, identified := true }

/-- An identified block with a data command in flight. -/
def inFlight (t : Tag) (p : Addr) (n : DWord) (block : Byte) (ws : List Word) : State :=
  { disk false block ws with tag := t, cursorPtr := p, remaining := n }

/-- What is observed of one instruction: its events, oldest first, and its result. -/
def seen : Host.Outcome State Fault Refusal → Option (List Event × Option OpResult)
  | .next t => some (t.trace.reverse, t.result)
  | .fault _ => none
  | .refused _ => none

/-- A field of the next state. -/
def ask {α : Type} (o : Host.Outcome State Fault Refusal) (f : State → α) : Option α :=
  match o with
  | .next t => some (f t)
  | .fault _ => none
  | .refused _ => none

/-- Why a step was refused. -/
def refusal : Host.Outcome State Fault Refusal → Option Refusal
  | .next _ => none
  | .fault _ => none
  | .refused r => some r

/-- The result code of the next state. -/
def code (o : Host.Outcome State Fault Refusal) : Option (Option ResultCode) := ask o fun t => t.result.map (·.code)

/-- The base IDENTIFY answer B of 95_test_vectors.md 2.4, with some words replaced. -/
def answerB (change : List (Nat × Word)) : List Word :=
  (change ++ [(0, 0x0040#16), (47, 0x8010#16), (49, 0x0300#16), (53, 0x0007#16), (60, 0x5000#16), (61, 0x0950#16),
    (80, 0x00FE#16), (83, 0x7400#16), (88, 0x203F#16), (100, 0x5000#16), (101, 0x0950#16)]).foldr
      (fun (e : Nat × Word) (ws : List Word) => ws.set e.1 e.2) (List.replicate 256 0#16)

/-- The parse of B with some words replaced. -/
def parsed (change : List (Nat × Word)) : Option Descriptor := parseIdentify (identBufOf (answerB change))

/-- Two reads of a settle delay, whose values are ignored. -/
def settle : List Word := [0x80#16, 0x80#16]

/-- Answers with which the device becomes ready, each wait at its second attempt. -/
def ready : List Word := [0x80#16, 0x50#16, 0x58#16, 0x50#16, 0x10#16, 0x50#16]

/-! ## WellFormed: the ill-formed term of each check is refused (30_encoding.md R121) -/

theorem test_wf_refuses_wide_buf : Instr.wf Config.default (.read 0x100000000#64 0#32 1#32) = false := by decide

theorem test_wf_accepts_wide_buf_at_64 :
    Instr.wf { Config.default with ptrWidth := .w64 } (.read 0x100000000#64 0#32 1#32) = true := by decide

theorem test_step_refuses_wide_buf :
    refusal (step { bench [] with requests := [encode (.write 0x100000000#64 0#32 1#32)] }) =
      some (.operandOutsideWidth 0x03#8) := by decide +kernel

theorem test_step_refuses_unknown_selector :
    refusal (step ((bench []).withFetchWord 8 0x13)) = some (.unknownSelector 0x13#8) := by decide +kernel

theorem test_step_waits_without_request : step (bench []) = .next (bench []) := rfl

theorem test_cfg_wf_refuses_zero_budget : Config.wf { Config.default with waitBudget := 0 } = false := by decide

theorem test_cfg_wf_refuses_shared_port : Config.wf { Config.default with ctrlBase := 0x1F7#16 } = false := by decide

/-! ## Decoding: one word of every row, written from its byte in spec/opcode_table.json -/

theorem test_decode_ata_commands :
    [decodeTableWord 8 0xEC, decodeTableWord 16 0x0120, decodeTableWord 8 0x24, decodeTableWord 8 0xC4,
      decodeTableWord 8 0x29, decodeTableWord 8 0x30, decodeTableWord 8 0x34, decodeTableWord 8 0xC5] =
    [some .identifyDevice, some (.readSectors 0 0 0), some (.readSectorsExt 0 0 0), some (.readMultiple 0 0 0),
      some (.readMultipleExt 0 0 0), some (.writeSectors 0 0 0), some (.writeSectorsExt 0 0 0),
      some (.writeMultiple 0 0 0)] := by decide +kernel

theorem test_decode_ata_commands_rest :
    [decodeTableWord 8 0x39, decodeTableWord 8 0xE7, decodeTableWord 24 0x0801C6] =
    [some (.writeMultipleExt 0 0 0), some .flushCache, some (.setMultipleModeCommand 8#8)] := by decide +kernel

theorem test_decode_api :
    [decodeTableWord 8 0x01, decodeTableWord 8 0x02, decodeTableWord 8 0x03, decodeTableWord 8 0x04,
      decodeTableWord 24 0x010005, decodeTableWord 8 0x05, decodeTableWord 8 0x06] =
    [some .initializeBlock, some (.read 0 0 0), some (.write 0 0 0), some .flush, some (.setInterruptMode true),
      some (.setInterruptMode false), some .getError] := by decide +kernel

theorem test_decode_internal :
    [decodeTableWord 8 0x07, decodeTableWord 24 0x010008, decodeTableWord 8 0x09, decodeTableWord 24 0x01000A,
      decodeTableWord 24 0x01000B, decodeTableWord 24 0x01000C, decodeTableWord 8 0x0D] =
    [some .identify, some (.selectDrive 1#1), some .softwareReset, some (.waitBusy true),
      some (.waitDataRequest true), some (.waitDeviceReady true), some .isBusy] := by decide +kernel

theorem test_decode_internal_rest :
    [decodeTableWord 8 0x0E, decodeTableWord 8 0x0F, decodeTableWord 8 0x10, decodeTableWord 8 0x11,
      decodeTableWord 24 0x080012, decodeTableWord 8 0x20, decodeTableWord 8 0x00] =
    [some .isDataRequestPending, some .hasError, some .wait400ns, some .transferUnit, some (.setMultipleMode 8#8),
      some .onInterrupt, none] := by decide +kernel

/-- 30_encoding.md R120, I10: an ATA opcode is no selector; the request is refused. Nor is a selector an opcode, and a kind
byte other than 0 and 1 is nothing. -/
theorem test_decode_kinds :
    decode 0xEC#144 = .error (.unknownSelector 0xEC#8) ∧ decode 0x0101#144 = .error (.unknownSelector 0x01#8) ∧
    decode 0x0201#144 = .error (.unknownSelector 0x01#8) ∧
    refusal (step { bench [] with requests := [0xE7#144] }) = some (.unknownSelector 0xE7#8) := by decide +kernel

theorem test_withFetchWord_places_command : (State.reset.withFetchWord 8 0xE7).requests = [encode .flushCache] := by
  decide +kernel

/-- `read(0x00100000, 0x12345, 1)` (30_encoding.md R123), field by field. -/
theorem test_decode_read_operands :
    decode (0x00000001#32 ++ 0x00012345#32 ++ 0x0000000000100000#64 ++ 0x00#8 ++ 0x02#8) =
      .ok (.read 0x100000#64 0x12345#32 1#32) := by decide +kernel

theorem test_decode_refuses_wide_bool : decodeTableWord 24 0x02000A = none := by decide +kernel

theorem test_decode_refuses_stray_operand : decodeTableWord 24 0x010001 = none := by decide +kernel

theorem test_withFetchWord_runs_it :
    seen (step ((bench [0xD0#16]).withFetchWord 8 0x0D)) =
      some ([.portRead8 0x3F6#16 0xD0#8], some ⟨.ok, .bool true⟩) := by decide +kernel

/-! ## Reset -/

theorem test_reset_tag : State.reset.tag = .none ∧ State.reset.selectedDrive = 0#1 := by decide

theorem test_reset_mem_wf : Memory.wf State.reset.mem = true := by decide

/-! ## The register protocol layer -/

/-- [T2] -/
theorem test_waitBusy_third_attempt :
    seen (exec (.waitBusy false) (bench [0x80#16, 0x80#16, 0x50#16])) =
      some ([.portRead8 0x3F6#16 0x80#8, .ioDelay, .portRead8 0x3F6#16 0x80#8, .ioDelay, .portRead8 0x3F6#16 0x50#8],
        some ⟨.ok, .none⟩) := by decide +kernel

/-- [T3] with a budget of 3: three reads, two delays. -/
theorem test_waitBusy_timeout :
    seen (exec (.waitBusy false) (bench [0x80#16, 0x80#16, 0x80#16, 0x50#16])) =
      some ([.portRead8 0x3F6#16 0x80#8, .ioDelay, .portRead8 0x3F6#16 0x80#8, .ioDelay, .portRead8 0x3F6#16 0x80#8],
        some ⟨.timeout, .none⟩) := by decide +kernel

/-- [T7] -/
theorem test_waitDataRequest_busy_not_looked_at :
    seen (exec (.waitDataRequest true) (bench [0x88#16])) =
      some ([.portRead8 0x3F6#16 0x88#8], some ⟨.ok, .none⟩) := by decide +kernel

/-- [T8] with a budget of 3. -/
theorem test_waitDataRequest_timeout :
    code (exec (.waitDataRequest false) (bench [0x58#16, 0x58#16, 0x58#16])) = some (some .timeout) := by decide +kernel

/-- [T10] -/
theorem test_waitDeviceReady_second_attempt :
    seen (exec (.waitDeviceReady true) (bench [0x00#16, 0x40#16])) =
      some ([.portRead8 0x3F6#16 0x00#8, .ioDelay, .portRead8 0x3F6#16 0x40#8], some ⟨.ok, .none⟩) := by decide +kernel

/-- [T9] with a budget of 3. -/
theorem test_waitDeviceReady_timeout :
    code (exec (.waitDeviceReady true) (bench [0#16, 0#16, 0#16])) = some (some .timeout) := by decide +kernel

/-- [T11] -/
theorem test_isBusy : seen (exec .isBusy (bench [0xD0#16])) =
    some ([.portRead8 0x3F6#16 0xD0#8], some ⟨.ok, .bool true⟩) := by decide +kernel

/-- [T12] -/
theorem test_isBusy_clear : code (exec .isBusy (bench [0x50#16])) = some (some .ok) ∧
    seen (exec .isBusy (bench [0x50#16])) = some ([.portRead8 0x3F6#16 0x50#8], some ⟨.ok, .bool false⟩) := by
  decide +kernel

/-- [T13] -/
theorem test_isDataRequestPending : seen (exec .isDataRequestPending (bench [0x88#16])) =
    some ([.portRead8 0x3F6#16 0x88#8], some ⟨.ok, .bool true⟩) := by decide +kernel

/-- [T14] -/
theorem test_hasError_fault_bit : seen (exec .hasError (bench [0x20#16])) =
    some ([.portRead8 0x3F6#16 0x20#8], some ⟨.ok, .bool true⟩) := by decide +kernel

/-- [T17] -/
theorem test_hasError_other_bits : seen (exec .hasError (bench [0x5E#16])) =
    some ([.portRead8 0x3F6#16 0x5E#8], some ⟨.ok, .bool false⟩) := by decide +kernel

/-- [T19] -/
theorem test_getError : seen (exec .getError (bench [0x04#16])) =
    some ([.portRead8 0x1F1#16 0x04#8], some ⟨.ok, .byte 0x04#8⟩) := by decide +kernel

/-- [T18] with two reads. -/
theorem test_wait400ns : seen (exec .wait400ns (bench settle)) =
    some ([.portRead8 0x3F6#16 0x80#8, .portRead8 0x3F6#16 0x80#8], some ⟨.ok, .none⟩) := by decide +kernel

/-- [S1] -/
theorem test_selectDrive :
    seen (exec (.selectDrive 1#1) (bench ([0x50#16] ++ settle ++ [0x50#16, 0x50#16]))) =
      some ([.portRead8 0x3F6#16 0x50#8, .portWrite8 0x1F6#16 0xF0#8, .portRead8 0x3F6#16 0x80#8,
        .portRead8 0x3F6#16 0x80#8, .portRead8 0x3F6#16 0x50#8, .portRead8 0x3F6#16 0x50#8], some ⟨.ok, .none⟩) ∧
    ask (exec (.selectDrive 1#1) (bench ([0x50#16] ++ settle ++ [0x50#16, 0x50#16]))) State.selectedDrive =
      some 1#1 := by decide +kernel

/-- [S7] -/
theorem test_selectDrive_error :
    ask (exec (.selectDrive 1#1) (bench ([0x50#16] ++ settle ++ [0x50#16, 0x51#16])))
      (fun t => (t.selectedDrive, t.result)) = some (0#1, some ⟨.deviceError, .none⟩) := by decide +kernel

/-- [X3] -/
theorem test_softwareReset_clears_command :
    ask (exec .softwareReset (inFlight .readMultiple 0x100000#64 1#32 4#8
      ([0x50#16] ++ settle ++ [0x80#16, 0x50#16, 0x50#16])))
      (fun t => (t.tag, t.cursorPtr, t.remaining, t.result)) =
      some (.none, 0#64, 0#32, some ⟨.ok, .none⟩) := by decide +kernel

/-- [X2] -/
theorem test_softwareReset_restores_interrupt_mode :
    seen (exec .softwareReset { bench ([0x50#16] ++ settle ++ [0x50#16, 0x50#16]) with intEnabled := true }) =
      some ([.portRead8 0x3F6#16 0x50#8, .portWrite8 0x3F6#16 0x06#8, .ioDelay, .ioDelay, .portWrite8 0x3F6#16 0x02#8,
        .portRead8 0x3F6#16 0x80#8, .portRead8 0x3F6#16 0x80#8, .portRead8 0x3F6#16 0x50#8,
        .portRead8 0x3F6#16 0x50#8, .portWrite8 0x3F6#16 0x00#8], some ⟨.ok, .none⟩) := by decide +kernel

/-! ## Device identification -/

/-- [W1] -/
theorem test_parse_base : parsed [] =
    some ⟨0x09505000#32, 0#32, 256#32, true, true, true, true, 16#8, 0#8, 7#8, 5#8, 5#8⟩ := by decide +kernel

/-- [W2, W3, W5] -/
theorem test_parse_mandatory : parsed [(0, 0x8000#16)] = none ∧ parsed [(49, 0x0100#16)] = none ∧
    parsed [(83, 0x1400#16)] = none := by decide +kernel

/-- [W4, W11] -/
theorem test_parse_sector_count :
    (parsed [(60, 0#16), (61, 0x1000#16), (100, 0#16), (101, 0#16), (102, 1#16)]).map
      (fun f => (f.lowerMaxNumSectors, f.upperMaxNumSectors)) = some (0#32, 1#32) ∧
    (parsed [(61, 0x0FFF#16), (60, 0xFFFF#16)]).map
      (fun f => (f.lowerMaxNumSectors, f.upperMaxNumSectors)) = some (0x0FFFFFFF#32, 0#32) := by decide +kernel

/-- [W14 with W22, and W16 with W21 and W27] -/
theorem test_parse_version_udma_size :
    (parsed [(80, 0xFFFF#16), (88, 0x407F#16)]).map
      (fun f => (f.maxAtaVersion, f.udmaSupported, f.udmaSelected)) = some (0#8, 5#8, 0xFF#8) ∧
    (parsed [(80, 0x01F0#16), (88, 0x407F#16), (118, 1#16)]).map
      (fun f => (f.maxAtaVersion, f.udmaSupported, f.udmaSelected, f.sectorSize)) =
      some (8#8, 6#8, 6#8, 65536#32) := by decide +kernel

/-- The answers of a polled IDENTIFY: the first poll ends at its second attempt, the second at its first [I1]. -/
def identifyRun (change : List (Nat × Word)) (last : Word) : List Word :=
  [0x50#16] ++ settle ++ [0x80#16, 0x80#16, 0x58#16, 0x58#16] ++ answerB change ++ settle ++ [0x50#16, last]

/-- [I1] -/
theorem test_identify : ask (exec .identify (bench (identifyRun [] 0x50#16)))
    (fun t => (t.identified, t.tag, t.result, t.desc.lowerMaxNumSectors)) =
      some (true, .none, some ⟨.ok, .none⟩, 0x09505000#32) := by decide +kernel

/-- [I8] -/
theorem test_identify_parse_failure : ask (exec .identify (bench (identifyRun [(0, 0x8000#16)] 0x50#16)))
    (fun t => (t.identified, t.tag, t.result, t.desc)) =
      some (false, .none, some ⟨.capabilityAbsent, .none⟩, Descriptor.reset) := by decide +kernel

/-- [I9] -/
theorem test_identifyDevice_finish_error : ask (exec .identifyDevice (bench (identifyRun [] 0x51#16)))
    (fun t => (t.identified, t.tag, t.result)) = some (true, .none, some ⟨.deviceError, .none⟩) := by decide +kernel

/-- [I11] -/
theorem test_identifyDevice_interrupt_mode :
    ask (exec .identifyDevice { bench ([0x50#16] ++ settle ++ [0x80#16]) with intEnabled := true })
      (fun t => (t.tag, t.result)) = some (.identify, some ⟨.ok, .none⟩) := by decide +kernel

/-! ## Read and write commands -/

/-- The events of a command up to its opcode, after three ready checks answered at once. -/
def image (i : Instr) (s : State) : Option (List Event) :=
  (seen (exec i { s with script := [0x50#16, 0x50#16, 0x50#16] ++ settle ++ [0x51#16] })).map fun r =>
    (r.1.drop 3).reverse.drop 3 |>.reverse

/-- [L2] -/
theorem test_read_image_lba28 :
    image (.read 0x1000#64 0x12345#32 1#32) { disk false 0#8 [] with
      desc := { smallDesc false 0#8 with lowerMaxNumSectors := 0x10000000#32 } } =
      some [.portWrite8 0x1F6#16 0xE0#8, .portWrite8 0x1F2#16 0x01#8, .portWrite8 0x1F3#16 0x45#8,
        .portWrite8 0x1F4#16 0x23#8, .portWrite8 0x1F5#16 0x01#8, .portWrite8 0x1F7#16 0x20#8] := by decide +kernel

/-- [L3] -/
theorem test_writeSectors_image_nibble :
    image (.writeSectors 0x1000#64 0x0A000001#32 2#32) { disk false 0#8 [] with
      desc := { smallDesc false 0#8 with lowerMaxNumSectors := 0x10000000#32 } } =
      some [.portWrite8 0x1F6#16 0xEA#8, .portWrite8 0x1F2#16 0x02#8, .portWrite8 0x1F3#16 0x01#8,
        .portWrite8 0x1F4#16 0x00#8, .portWrite8 0x1F5#16 0x00#8, .portWrite8 0x1F7#16 0x30#8] := by decide +kernel

/-- [L4] -/
theorem test_readSectorsExt_image :
    image (.readSectorsExt 0x1000#64 0xFEDCBA98#32 0x1234#32) { disk true 0#8 [] with
      desc := { smallDesc true 0#8 with upperMaxNumSectors := 1#32 } } =
      some [.portWrite8 0x1F6#16 0xE0#8, .portWrite8 0x1F2#16 0x12#8, .portWrite8 0x1F3#16 0xFE#8,
        .portWrite8 0x1F4#16 0x00#8, .portWrite8 0x1F5#16 0x00#8, .portWrite8 0x1F2#16 0x34#8,
        .portWrite8 0x1F3#16 0x98#8, .portWrite8 0x1F4#16 0xBA#8, .portWrite8 0x1F5#16 0xDC#8,
        .portWrite8 0x1F7#16 0x24#8] := by decide +kernel

/-- [L5] -/
theorem test_writeMultipleExt_image :
    (image (.writeMultipleExt 0x1000#64 5#32 16#32) { disk true 8#8 [] with selectedDrive := 1#1 }).map
      (fun es => (es.head?, es.getLast?)) =
      some (some (.portWrite8 0x1F6#16 0xF0#8), some (.portWrite8 0x1F7#16 0x39#8)) := by decide +kernel

/-- [L6] to [L9]: the opcode follows the descriptor. -/
theorem test_named_commands_opcode :
    (image (.readMultiple 0x1000#64 7#32 3#32) (disk false 2#8 [])).map List.getLast? =
      some (some (.portWrite8 0x1F7#16 0xC4#8)) ∧
    (image (.readMultipleExt 0x1000#64 7#32 3#32) (disk true 2#8 [])).map List.getLast? =
      some (some (.portWrite8 0x1F7#16 0x29#8)) ∧
    (image (.writeMultiple 0x1000#64 7#32 3#32) (disk false 2#8 [])).map List.getLast? =
      some (some (.portWrite8 0x1F7#16 0xC5#8)) ∧
    (image (.writeSectorsExt 0x1000#64 7#32 3#32) (disk true 0#8 [])).map List.getLast? =
      some (some (.portWrite8 0x1F7#16 0x34#8)) := by decide +kernel

/-- A command that the block does not select: no access (log 4). -/
theorem test_named_command_not_selected :
    seen (exec (.readMultiple 0x1000#64 7#32 3#32) (disk true 0#8 [])) =
      some ([], some ⟨.protocolViolation, .none⟩) := by decide +kernel

/-- [A1, A2, A4, A5] -/
theorem test_argument_checks :
    argsOk smallCfg (smallDesc false 0#8) 0x1000#64 999#32 1#32 = true ∧
    argsOk smallCfg (smallDesc false 0#8) 0x1000#64 999#32 2#32 = false ∧
    argsOk smallCfg (smallDesc false 0#8) 0x1000#64 0#32 0#32 = false ∧
    argsOk smallCfg { smallDesc false 0#8 with lowerMaxNumSectors := 0x10000000#32 } 0x1000#64 0#32 256#32 = false := by
  decide +kernel

/-- [A10, A11, A13, A14] -/
theorem test_argument_checks_limits :
    argsOk smallCfg { smallDesc true 0#8 with upperMaxNumSectors := 1#32 } 0x1000#64 0xFFFFFFFF#32 1#32 = true ∧
    argsOk smallCfg { smallDesc true 0#8 with upperMaxNumSectors := 1#32 } 0x1000#64 0xFFFFFFFF#32 2#32 = false ∧
    argsOk smallCfg { smallDesc true 0#8 with sectorSize := 256#32 } 0xFFFFFE00#64 0#32 1#32 = false ∧
    argsOk smallCfg { smallDesc true 0#8 with sectorSize := 256#32 } 0xFFFFFC00#64 0#32 1#32 = true := by decide +kernel

/-- The answers of a polled transfer of one unit whose words, if it reads, are `ws`. -/
def oneUnit (ws : List Word) (last : Word) : List Word :=
  ready ++ settle ++ [0x58#16, 0x80#16, 0x58#16, 0x58#16] ++ ws ++ settle ++ [0x80#16, 0x50#16, last]

/-- A polled read of one sector of two words, at an odd address [P1, U12]. -/
theorem test_read_polled :
    ask (exec (.read 0x1001#64 5#32 1#32) (disk false 0#8 (oneUnit [0x1234#16, 0xABCD#16] 0x50#16)))
      (fun t => (t.mem, t.tag, t.result)) =
      some ([(0x1001, 0x34#8), (0x1002, 0x12#8), (0x1003, 0xCD#8), (0x1004, 0xAB#8)], .none, some ⟨.ok, .none⟩) := by
  decide +kernel

/-- [P-d] with one unit: the finish check finds DRQ set, and the tag stays. -/
theorem test_readSectors_finish_not_idle :
    ask (exec (.readSectors 0x1001#64 5#32 1#32) (disk false 0#8 (oneUnit [0#16, 1#16] 0x58#16)))
      (fun t => (t.tag, t.cursorPtr, t.remaining, t.result)) =
      some (.read, 0x1005#64, 0#32, some ⟨.protocolViolation, .none⟩) := by decide +kernel

/-- [U13] polled. -/
theorem test_write_polled :
    (seen (exec (.write 0x3000#64 7#32 1#32)
      { disk false 0#8 (oneUnit [] 0x50#16) with mem := [(0x3000, 0xCD#8), (0x3001, 0xAB#8)] })).map
        (fun r => (dataWordsOut r.1, r.2)) = some ([0xABCD#16, 0x0000#16], some ⟨.ok, .none⟩) := by decide +kernel

/-- WRITE MULTIPLE of 3 sectors with a block of 2: units of 2 and 1 sectors (42_command_transfer.md R232). -/
theorem test_write_multiple_units :
    (seen (exec (.write 0x2000#64 0#32 3#32) (disk false 2#8 ([0x50#16, 0x50#16, 0x50#16] ++ settle ++
      [0x58#16, 0x58#16, 0x58#16] ++ settle ++ [0x58#16, 0x58#16] ++ settle ++ [0x50#16, 0x50#16])))).map
        (fun r => ((dataWordsOut r.1).length, r.2)) = some (6, some ⟨.ok, .none⟩) := by decide +kernel

/-- [U3] -/
theorem test_transferUnit_busy :
    ask (exec .transferUnit (inFlight .read 0x1000#64 2#32 0#8 [0x80#16]))
      (fun t => (t.tag, t.cursorPtr, t.remaining, t.result)) =
      some (.read, 0x1000#64, 2#32, some ⟨.busyRetry, .none⟩) := by decide +kernel

/-- [U10] with sectors of two words. -/
theorem test_transferUnit_write_multiple :
    ask (exec .transferUnit (inFlight .writeMultiple 0x2000#64 3#32 2#8 [0x58#16]))
      (fun t => (t.tag, t.cursorPtr, t.remaining, t.result)) =
      some (.writeMultiple, 0x2008#64, 1#32, some ⟨.ok, .none⟩) := by decide +kernel

/-! ## FLUSH CACHE and SET MULTIPLE MODE -/

/-- The answers of a polled command without data. -/
def plainRun (last : Word) : List Word := ready ++ settle ++ [0x80#16, 0x80#16, 0x50#16, last]

/-- [F1] -/
theorem test_flush : ask (exec .flush (disk false 0#8 (plainRun 0x50#16))) (fun t => (t.tag, t.result)) =
    some (.none, some ⟨.ok, .none⟩) := by decide +kernel

/-- [F2] -/
theorem test_flushCache_interrupt_mode :
    ask (exec .flushCache { disk false 0#8 (ready ++ settle ++ [0x80#16]) with intEnabled := true })
      (fun t => (t.tag, t.result)) = some (.flushCache, some ⟨.ok, .none⟩) := by decide +kernel

/-- [M1] -/
theorem test_setMultipleMode : ask (exec (.setMultipleMode 8#8) (disk false 4#8 (plainRun 0x50#16)))
    (fun t => (t.desc.currentMultipleSectorSize, t.result)) = some (8#8, some ⟨.ok, .none⟩) := by decide +kernel

/-- [M7] -/
theorem test_setMultipleModeCommand_error :
    ask (exec (.setMultipleModeCommand 8#8) (disk false 4#8 (plainRun 0x51#16)))
      (fun t => (t.desc.currentMultipleSectorSize, t.tag, t.result)) =
      some (4#8, .none, some ⟨.deviceError, .none⟩) := by decide +kernel

/-! ## The interrupt dispatcher -/

/-- [D5] with a sector of two words. -/
theorem test_onInterrupt_last_unit :
    ask (exec .onInterrupt (inFlight .read 0x1200#64 1#32 0#8 ([0x58#16, 0x58#16, 7#16, 8#16] ++ settle ++ [0x50#16])))
      (fun t => (t.tag, t.cursorPtr, t.remaining, t.trace.head?)) =
      some (.none, 0#64, 0#32, some (.sendEOI 14)) := by decide +kernel

/-- [D1] -/
theorem test_onInterrupt_spurious : seen (exec .onInterrupt (bench [0x50#16])) =
    some ([.portRead8 0x1F7#16 0x50#8, .sendEOI 14], some ⟨.protocolViolation, .none⟩) := by decide +kernel

/-! ## Bring-up -/

/-- [B1] -/
theorem test_setInterruptMode : seen (exec (.setInterruptMode true) (bench [])) =
    some ([.portWrite8 0x3F6#16 0x00#8, .unmaskLine 14], some ⟨.ok, .none⟩) := by decide +kernel

/-- The answers of the first two parts of `initialize`: reset and select. -/
def initStart : List Word :=
  [0x50#16] ++ settle ++ [0x80#16, 0x50#16, 0x50#16] ++ [0x50#16] ++ settle ++ [0x80#16, 0x50#16, 0x50#16]

/-- The answers of a full `initialize`: reset, select, IDENTIFY, SET MULTIPLE MODE, the read-back, one stale word. -/
def initRun : List Word :=
  initStart ++ identifyRun [] 0x50#16 ++ plainRun 0x50#16 ++ [0xA0#16] ++ [0x58#16, 0x58#16, 0x1111#16, 0x50#16]

/-- [P3, E6]: the default request 8 against a maximum of 16. -/
theorem test_initialize : ask (exec .initializeBlock { bench initRun with intEnabled := true })
    (fun t => (t.result, t.identified, t.intEnabled, t.desc.currentMultipleSectorSize, t.script)) =
      some (some ⟨.ok, .none⟩, true, false, 8#8, []) := by decide +kernel

/-- [P3b]: the read-back names drive 1; no drain. -/
theorem test_initialize_read_back_differs :
    ask (exec .initializeBlock (bench (initStart ++ identifyRun [(47, 0#16)] 0x50#16 ++ [0xB0#16, 0x58#16])))
      (fun t => (t.result, t.script, t.trace.head?)) =
      some (some ⟨.protocolViolation, .none⟩, [0x58#16], some (.portRead8 0x1F6#16 0xB0#8)) := by decide +kernel

/-! ## Witnesses: states and operands that meet the hypotheses of the statements of Certificates/Slice0/Obligations.lean -/

/-- The instruction answers a next state there. -/
def answers (o : Host.Outcome State Fault Refusal) : Bool := (seen o).isSome

/-- A block in interrupt mode whose oldest request issues FLUSH CACHE. -/
def stepBench : State :=
  { disk false 0#8 (ready ++ settle ++ [0x80#16]) with intEnabled := true, requests := [encode .flush] }

theorem witness_DecodeEncodeAgree : decode (encode (.read 0x1001#64 5#32 1#32)) = .ok (.read 0x1001#64 5#32 1#32) := by
  decide +kernel

theorem witness_StepRunsOldestRequest :
    (decode (encode .flush) = .ok .flush ∧ Instr.wf stepBench.cfg .flush = true) ∧
    (decode (encode (.read 0x100000000#64 0#32 1#32)) = .ok (.read 0x100000000#64 0#32 1#32) ∧
      Instr.wf stepBench.cfg (.read 0x100000000#64 0#32 1#32) = false) ∧
    (decode 0x13#144 = .error (.unknownSelector 0x13#8) ∧ decode 0x02000A#144 = .error (.badOperand 0x0A#8)) ∧
    ((0xEC#144).extractLsb' 8 8 = 0#8 ∧ (0xEC#144).extractLsb' 0 8 = 0xEC#8) := by
  decide +kernel

/-- For StepKeepsDescriptorInvariants, StepKeepsTagInvariants, StepKeepsMemoryAndCursorForm, StepKeepsParameters,
StepUsesDeclaredWidths, CommandPortTakesOnlyElevenOpcodes, CommandFollowedBySettleDelay and
DeviceControlAndFeaturesWrites: a step that writes a command. -/
theorem witness_step : (stepBench.DescriptorOk ∧ stepBench.TagOk ∧ stepBench.CursorOk) ∧
    Memory.wf stepBench.mem = true ∧ stepBench.cfg.wf = true ∧ answers (step stepBench) = true ∧
    (ask (step stepBench) (fun t => decide (commandEvent t.cfg .flushCache ∈ t.trace))) = some true := by
  unfold State.DescriptorOk State.TagOk State.CursorOk udmaFieldOk
  decide +kernel

theorem witness_StatusReadsAndControllerRequests :
    (bench [0x50#16]).cfg.wf = true ∧ answers (exec .onInterrupt (bench [0x50#16])) = true ∧
    answers (exec (.setInterruptMode true) (bench [])) = true ∧
    answers (exec (.setInterruptMode false) (bench [])) = true := by decide +kernel

theorem witness_OnlyTransfersTouchMemory : touchesMemory .flush = false := by decide

theorem witness_OneCommandAtATime :
    startsCommand .identify = true ∧ (inFlight .read 0x1000#64 2#32 0#8 []).tag ≠ .none := by decide +kernel

theorem witness_CommandGuardRule :
    guardedCommand .flush = true ∧ (bench []).identified = false ∧
    (inFlight .read 0x1000#64 2#32 0#8 []).tag ≠ .none ∧
    ((disk false 0#8 []).identified = true ∧ (disk false 0#8 []).tag = .none) := by decide +kernel

theorem witness_TagTransitions :
    (stepBench.tag = .none ∧ ask (exec .flush stepBench) State.tag = some .flushCache) ∧
    ask (exec .transferUnit (inFlight .read 0x1000#64 2#32 0#8 [0x50#16])) State.tag = some .none := by decide +kernel

/-- At the last attempt of the budget, and past it; also for NamedWaits. -/
theorem witness_WaitBitBudgetExact :
    (2 < (bench [0x80#16, 0x80#16, 0x50#16]).cfg.waitBudget ∧
      (bench [0x80#16, 0x80#16, 0x50#16]).waitMeets 7 false 0 2) ∧
    (bench [0x80#16, 0x80#16, 0x80#16]).waitMisses 7 false 0 3 := by
  unfold State.waitMeets State.waitMisses
  decide +kernel

theorem witness_NamedWaits :
    ((bench [0x00#16, 0x08#16]).waitMeets 3 true 0 1 ∧ (bench [0#16, 0#16, 0#16]).waitMisses 3 true 0 3) ∧
    (bench [0x00#16, 0x40#16]).waitMeets 6 true 0 1 ∧ (bench [0#16, 0#16, 0#16]).waitMisses 6 true 0 3 := by
  unfold State.waitMeets State.waitMisses
  decide +kernel

theorem witness_SelectDriveOutcomes :
    (inFlight .read 0x1000#64 2#32 0#8 []).tag ≠ .none ∧ (bench []).tag = .none ∧
    statusIdle ((bench [0x58#16]).nextByte 0) = false ∧
    (statusIdle ((bench ([0x50#16] ++ settle ++ [0x80#16, 0x80#16])).nextByte 0) = true ∧
      (bench ([0x50#16] ++ settle ++ [0x80#16, 0x80#16])).waitMisses 7 false 3 2) ∧
    ((bench ([0x50#16] ++ settle ++ [0x80#16, 0x50#16, 0x51#16])).waitMeets 7 false 3 1 ∧
      statusFailed ((bench ([0x50#16] ++ settle ++ [0x80#16, 0x50#16, 0x51#16])).nextByte 5) = true) ∧
    (bench ([0x50#16] ++ settle ++ [0x80#16, 0x50#16, 0x50#16])).selectMeets 0 1 := by
  unfold State.selectMeets State.waitMeets State.waitMisses
  decide +kernel

theorem witness_SoftwareResetOutcomes :
    statusBsy ((bench [0x80#16]).nextByte 0) = true ∧
    (statusBsy ((bench ([0x50#16] ++ settle ++ [0x80#16, 0x80#16, 0x80#16])).nextByte 0) = false ∧
      (bench ([0x50#16] ++ settle ++ [0x80#16, 0x80#16, 0x80#16])).waitMisses 7 false 3 3) ∧
    ((bench ([0x50#16] ++ settle ++ [0x80#16, 0x80#16, 0x50#16, 0x51#16])).waitMeets 7 false 3 2 ∧
      statusFailed ((bench ([0x50#16] ++ settle ++ [0x80#16, 0x80#16, 0x50#16, 0x51#16])).nextByte 6) = true) ∧
    (bench ([0x50#16] ++ settle ++ [0x80#16, 0x80#16, 0x50#16, 0x50#16])).resetMeets 0 2 := by
  unfold State.resetMeets State.waitMeets State.waitMisses
  decide +kernel

/-- For the four statements about the parse; word 61 at the two sides of its boundary, the ATA version at 7 and 8. -/
theorem witness_parse :
    (parsed [(0, 0x8000#16)]).isNone = true ∧
    (parsed [(61, 0x0FFF#16), (80, 0x00FC#16), (117, 2#16)]).map (fun f => f.maxAtaVersion) = some 7#8 ∧
    (parsed [(61, 0x1000#16), (80, 0x0100#16), (117, 2#16)]).map (fun f => f.maxAtaVersion) = some 8#8 ∧
    (parsed [(80, 0x0000#16)]).isSome = true := by decide +kernel

/-- The words a data phase reads after its status byte. -/
def dataWords (s : State) : IdentBuf := Vector.ofFn fun i => s.nth (i.val + 1)

theorem dataWords_get (s : State) (i : Fin 256) : (dataWords s)[i] = s.nth (i.val + 1) := by
  simp [dataWords]

theorem witness_ParseMandatoryChecks :
    let s := bench ([0x58#16] ++ answerB [(0, 0x8000#16)])
    (∀ i : Fin 256, (dataWords s)[i] = s.nth (i.val + 1)) ∧ (statusBsy (s.nextByte 0) = false ∧
      statusDrq (s.nextByte 0) = true) ∧ (parseIdentify (dataWords s)).isNone = true :=
  ⟨dataWords_get _, by decide +kernel, by decide +kernel⟩

theorem witness_IdentifyDataOutcomes :
    (statusBsy ((bench [0x80#16]).nextByte 0) = true ∧ statusBsy ((bench [0x50#16]).nextByte 0) = false ∧
      statusDrq ((bench [0x50#16]).nextByte 0) = false) ∧
    let s := bench ([0x58#16] ++ answerB [])
    (∀ i : Fin 256, (dataWords s)[i] = s.nth (i.val + 1)) ∧ statusDrq (s.nextByte 0) = true ∧
      (parseIdentify (dataWords s)).isSome = true :=
  ⟨by decide +kernel, dataWords_get _, by decide +kernel, by decide +kernel⟩

/-- For IdentifyCompletesPolled. -/
theorem witness_IdentifyCompletesPolled :
    let s := bench (identifyRun [] 0x50#16)
    (s.tag = .none ∧ s.intEnabled = false) ∧ s.identifyMeets 0 1 0 ∧
    (parseIdentify (s.identifyWords 0 1)).isSome = true := by
  unfold State.identifyMeets State.identifyDataMeets State.identifyPollMeets State.identifyIssueMeets State.issueMeets
    State.finishMeets State.waitMeets
  decide +kernel

theorem witness_IdentifyCompletesInInterruptMode :
    let s : State := { bench ([0x50#16] ++ settle ++ [0x80#16]) with intEnabled := true }
    s.tag = .none ∧ s.intEnabled = true ∧ s.identifyIssueMeets 0 := by
  unfold State.identifyIssueMeets State.issueMeets
  decide +kernel

/-- The answers of a polled IDENTIFY up to its data check, which sees `b`; the first poll ends at its second attempt. -/
def identifyCheck (b : Word) : List Word := [0x50#16] ++ settle ++ [0x80#16, 0x80#16, 0x58#16, b]

/-- The exits of IdentifyExits before the data check, and at it. -/
theorem witness_IdentifyExits :
    statusDrdy ((bench [0x10#16]).nextByte 0) = false ∧
    (statusIdle ((bench ([0x50#16] ++ settle ++ [0x51#16])).nextByte 0) = true ∧
      immediateError ((bench ([0x50#16] ++ settle ++ [0x51#16])).nextByte 3) = true) ∧
    ((bench ([0x50#16] ++ settle ++ [0x80#16, 0x80#16, 0x80#16, 0x80#16])).identifyIssueMeets 0 ∧
      (bench ([0x50#16] ++ settle ++ [0x80#16, 0x80#16, 0x80#16, 0x80#16])).waitMisses 7 false 4 3) ∧
    ((bench (identifyCheck 0x80#16)).identifyPollMeets 0 1 ∧
      statusBsy ((bench (identifyCheck 0x80#16)).nextByte 6) = true) ∧
    ((bench (identifyCheck 0x51#16)).identifyPollMeets 0 1 ∧
      statusBsy ((bench (identifyCheck 0x51#16)).nextByte 6) = false ∧
      statusDrq ((bench (identifyCheck 0x51#16)).nextByte 6) = false) := by
  unfold State.identifyPollMeets State.identifyIssueMeets State.issueMeets State.waitMeets State.waitMisses
  decide +kernel

/-- The exits of IdentifyExits after the data phase: the second poll runs out, the finish check sees DRQ, and the parse
fails. -/
theorem witness_IdentifyExits_data :
    let u := bench (identifyCheck 0x58#16 ++ answerB [] ++ settle ++ [0x80#16, 0x80#16, 0x80#16])
    let v := bench (identifyRun [] 0x58#16)
    (u.identifyDataMeets 0 1 ∧ u.waitMisses 7 false 265 3) ∧
    (v.identifyDataMeets 0 1 ∧ v.waitMeets 7 false 265 0 ∧ statusIdle (v.nextByte 266) = false) ∧
    (bench (identifyRun [(0, 0x8000#16)] 0x50#16)).identifyMeets 0 1 0 ∧
    (parseIdentify ((bench (identifyRun [(0, 0x8000#16)] 0x50#16)).identifyWords 0 1)).isNone = true := by
  unfold State.identifyMeets State.identifyDataMeets State.identifyPollMeets State.identifyIssueMeets State.issueMeets
    State.finishMeets State.waitMeets State.waitMisses
  decide +kernel

/-- For TransferIssueCompletes and its two clauses, at the last sector of the device. -/
theorem witness_TransferIssueCompletes :
    let s : State := { disk false 0#8 (ready ++ settle ++ [0x58#16]) with intEnabled := true }
    let e := disk false 0#8 (ready ++ settle ++ [0x51#16])
    transferRequest s.desc (.read 0x1001#64 999#32 1#32) = some (.read, 0x1001#64, 999#32, 1#32) ∧
    (s.identified = true ∧ s.tag = .none ∧ s.intEnabled = true) ∧
    argsOk s.cfg s.desc 0x1001#64 999#32 1#32 = true ∧ s.readyMeets 1 1 1 ∧ s.issueMeets 6 ∧
    e.readyMeets 1 1 1 ∧ ¬ e.issueMeets 6 := by
  unfold State.readyMeets State.issueMeets State.waitMeets
  decide +kernel

theorem witness_TaskFileImages :
    (disk false 0#8 []).desc.hasLba48 = false ∧ (disk true 0#8 []).desc.hasLba48 = true := by decide +kernel

theorem witness_NamedCommandNotSelected :
    namedTransfer (.readMultiple 0x1000#64 7#32 3#32) = some (.readMultiple, .read) ∧
    selectOpcode (disk true 0#8 []).desc .read ≠ .readMultiple := by decide +kernel

theorem witness_ArgumentChecks :
    let s := disk false 0#8 []
    transferRequest s.desc (.writeSectors 0x1000#64 999#32 2#32) = some (.write, 0x1000#64, 999#32, 2#32) ∧
    (s.identified = true ∧ s.tag = .none) ∧ argsOk s.cfg s.desc 0x1000#64 999#32 2#32 = false := by decide +kernel

/-- The answers of a polled transfer of one unit whose last poll runs out. -/
def oneUnitStuck (ws : List Word) : List Word :=
  ready ++ settle ++ [0x58#16, 0x80#16, 0x58#16, 0x58#16] ++ ws ++ settle ++ [0x80#16, 0x80#16, 0x80#16]

/-- For PolledReadDelivers and PolledReadOneUnitCompletes; the last two lines are its failing ends. -/
theorem witness_PolledReadOneUnitCompletes :
    let s := disk false 0#8 (oneUnit [0x1234#16, 0xABCD#16] 0x50#16)
    (transferRequest s.desc (.read 0x1001#64 999#32 1#32) = some (.read, 0x1001#64, 999#32, 1#32) ∧
      code (exec (.read 0x1001#64 999#32 1#32) s) = some (some .ok)) ∧
    (s.identified = true ∧ s.tag = .none ∧ s.intEnabled = false ∧ Memory.wf s.mem = true) ∧
    argsOk s.cfg s.desc 0x1001#64 999#32 1#32 = true ∧ s.readyMeets 1 1 1 ∧ s.issueMeets 6 ∧
    s.waitMeets 7 false 9 1 ∧ (statusBsy (s.nextByte 11) = false ∧ statusDrq (s.nextByte 11) = true) ∧
    s.admitsRange 0x1001 4 ∧ s.finishMeets 16 1 ∧
    (disk false 0#8 (oneUnitStuck [0x1234#16, 0xABCD#16])).waitMisses 7 false 16 3 ∧
    ((disk false 0#8 (oneUnit [0x1234#16, 0xABCD#16] 0x58#16)).waitMeets 7 false 16 1 ∧
      statusIdle ((disk false 0#8 (oneUnit [0x1234#16, 0xABCD#16] 0x58#16)).nextByte 18) = false) := by
  unfold State.readyMeets State.issueMeets State.finishMeets State.waitMeets State.waitMisses State.admitsRange
  decide +kernel

/-- For PolledWriteDelivers and PolledWriteOneUnitCompletes; two sectors in a block of two. The last two lines are its
failing ends. -/
theorem witness_PolledWriteOneUnitCompletes :
    let s := disk true 2#8 (oneUnit [] 0x50#16)
    (transferRequest s.desc (.writeMultipleExt 0x1001#64 0#32 2#32) = some (.write, 0x1001#64, 0#32, 2#32) ∧
      code (exec (.writeMultipleExt 0x1001#64 0#32 2#32) s) = some (some .ok)) ∧
    (s.identified = true ∧ s.tag = .none ∧ s.intEnabled = false) ∧
    argsOk s.cfg s.desc 0x1001#64 0#32 2#32 = true ∧ s.readyMeets 1 1 1 ∧ s.issueMeets 6 ∧
    s.waitMeets 7 false 9 1 ∧ (statusBsy (s.nextByte 11) = false ∧ statusDrq (s.nextByte 11) = true) ∧
    (2 : Nat) ≤ (if multipleOn s.desc then s.desc.currentMultipleSectorSize.toNat else 1) ∧
    s.admitsRange 0x1001 8 ∧ s.finishMeets 14 1 ∧
    (disk true 2#8 (oneUnitStuck [])).waitMisses 7 false 14 3 ∧
    ((disk true 2#8 (oneUnit [] 0x58#16)).waitMeets 7 false 14 1 ∧
      statusIdle ((disk true 2#8 (oneUnit [] 0x58#16)).nextByte 16) = false) := by
  unfold State.readyMeets State.issueMeets State.finishMeets State.waitMeets State.waitMisses State.admitsRange
  decide +kernel

/-- A disk with the read in flight of one sector whose first poll answers `ws`. -/
def polledRead (ws : List Word) : State := disk false 0#8 (ready ++ settle ++ [0x58#16] ++ ws)

/-- For PolledTransferExits: the first poll runs out, BSY and no DRQ at the burst, and a hole in the second word; the last
line is a timeout between two units. -/
theorem witness_PolledTransferExits :
    let s : State := { polledRead [0x80#16, 0x50#16, 0x58#16] with holes := [⟨0x1003, 1⟩] }
    (transferRequest s.desc (.readSectors 0x1001#64 999#32 1#32) = some (.read, 0x1001#64, 999#32, 1#32) ∧
      s.identified = true ∧ s.tag = .none ∧ s.intEnabled = false) ∧
    (argsOk s.cfg s.desc 0x1001#64 999#32 1#32 = true ∧ s.readyMeets 1 1 1 ∧ s.issueMeets 6) ∧
    (polledRead [0x80#16, 0x80#16, 0x80#16]).waitMisses 7 false 9 3 ∧
    (s.waitMeets 7 false 9 1 ∧ statusBsy (s.nextByte 11) = false ∧ statusDrq (s.nextByte 11) = true ∧
      (1 < firstUnit s.desc 1#32 * s.desc.sectorSize.toNat ∧ s.admitsRange 0x1001 2 ∧
        (s.admits 0x1003 && s.admits 0x1004) = false)) ∧
    (statusBsy ((polledRead [0x80#16, 0x50#16, 0x80#16]).nextByte 11) = true ∧
      statusDrq ((polledRead [0x80#16, 0x50#16, 0x51#16]).nextByte 11) = false) ∧
    ask (exec (.read 0x1001#64 5#32 2#32) (polledRead ([0x58#16, 0x58#16, 1#16, 2#16] ++ settle ++
      [0x80#16, 0x80#16, 0x80#16]))) (fun t => (t.result, t.tag, t.cursorPtr, t.remaining)) =
      some (some ⟨.timeout, .none⟩, .read, 0x1005#64, 1#32) := by
  unfold State.readyMeets State.issueMeets State.waitMeets State.waitMisses State.admitsRange
  decide +kernel

theorem witness_TransferAnswersOnAdmittedBuffer :
    let s := disk true 2#8 []
    transferRequest s.desc (.readMultipleExt 0x1000#64 0#32 3#32) = some (.read, 0x1000#64, 0#32, 3#32) ∧
    s.admitsRange 0x1000 12 := by
  unfold State.admitsRange
  decide +kernel

/-- For TransferUnitCompletes, in both directions. -/
theorem witness_TransferUnitCompletes :
    let s := inFlight .readMultiple 0x1000#64 1#32 4#8 [0x58#16, 1#16, 2#16]
    let u := inFlight .write 0x1000#64 2#32 0#8 [0x58#16]
    (s.unitReady ∧ statusBsy (s.nextByte 0) = false ∧ statusDrq (s.nextByte 0) = true ∧ s.tag.isRead = true ∧
      Memory.wf s.mem = true) ∧
    (u.unitReady ∧ statusBsy (u.nextByte 0) = false ∧ statusDrq (u.nextByte 0) = true ∧ u.tag.isRead = false) := by
  unfold State.unitReady State.admitsRange
  decide +kernel

/-- For the clauses of TransferUnitExits; in the last the second word is not admitted. -/
theorem witness_TransferUnitExits :
    (bench []).tag.isData = false ∧ (inFlight .read 0x1000#64 0#32 0#8 []).remaining = 0#32 ∧
    ((inFlight .read 0x1000#64 2#32 0#8 []).tag.isData = true ∧
      (inFlight .read 0x1000#64 2#32 0#8 []).remaining ≠ 0#32) ∧
    statusBsy ((bench [0x80#16]).nextByte 0) = true ∧ statusDrq ((bench [0x50#16]).nextByte 0) = false ∧
    let s : State := { inFlight .write 0x1000#64 2#32 0#8 [0x58#16] with holes := [⟨0x1003, 1⟩] }
    (1 < unitWords s ∧ s.admitsRange 0x1000 2 ∧ (s.admits 0x1002 && s.admits 0x1003) = false) := by
  unfold State.admitsRange
  decide +kernel

theorem witness_CallerWordRoundTrip :
    Memory.wf (bench []).mem = true ∧
    (match memWrite16 0x1001 0x1234#16 (bench []) with | .ok _ => true | .error _ => false) = true ∧
    (match memRead16 0x1001 (bench []) with | .ok _ => true | .error _ => false) = true := by decide +kernel

/-- For the second half of TransferFrame; witness_PolledReadOneUnitCompletes is one for the first. -/
theorem witness_TransferFrame :
    answers (exec .transferUnit (inFlight .read 0x1000#64 1#32 0#8 [0x58#16, 1#16, 2#16])) = true ∧
    answers (exec .onInterrupt (inFlight .write 0x1000#64 0#32 0#8 ([0x50#16] ++ settle ++ [0x50#16]))) = true := by
  decide +kernel

theorem witness_CheckReadyRule :
    (bench ready).readyMeets 1 1 1 ∧ (bench [0x80#16, 0x80#16, 0x80#16]).waitMisses 7 false 0 3 ∧
    ((bench [0x08#16, 0x08#16, 0x08#16, 0x08#16]).waitMeets 7 false 0 0 ∧
      (bench [0x08#16, 0x08#16, 0x08#16, 0x08#16]).waitMisses 3 false 1 3) ∧
    ((bench [0#16, 0#16, 0#16, 0#16, 0#16]).waitMeets 7 false 0 0 ∧
      (bench [0#16, 0#16, 0#16, 0#16, 0#16]).waitMeets 3 false 1 0 ∧
      (bench [0#16, 0#16, 0#16, 0#16, 0#16]).waitMisses 6 true 2 3) := by
  unfold State.readyMeets State.waitMeets State.waitMisses
  decide +kernel

theorem witness_FlushCompletes :
    let s := disk false 0#8 (plainRun 0x50#16)
    let m := disk false 0#8 (ready ++ settle ++ [0x80#16, 0x80#16, 0x80#16, 0x80#16])
    (s.identified = true ∧ s.tag = .none ∧ s.intEnabled = false ∧ stepBench.intEnabled = true) ∧
    (s.readyMeets 1 1 1 ∧ s.issueMeets 6 ∧ s.finishMeets 9 1) ∧ (stepBench.readyMeets 1 1 1 ∧ stepBench.issueMeets 6) ∧
    m.readyMeets 1 1 1 ∧ m.issueMeets 6 ∧ m.waitMisses 7 false 9 3 := by
  unfold State.readyMeets State.issueMeets State.finishMeets State.waitMeets State.waitMisses
  decide +kernel

/-- The immediate error and the status that is not idle of FlushCompletes. -/
theorem witness_FlushCompletes_exits :
    let e := disk false 0#8 (ready ++ settle ++ [0x51#16])
    let f := disk false 0#8 (plainRun 0x58#16)
    (e.readyMeets 1 1 1 ∧ ¬ e.issueMeets 6) ∧
    (f.readyMeets 1 1 1 ∧ f.issueMeets 6 ∧ f.waitMeets 7 false 9 1 ∧ statusIdle (f.nextByte 11) = false) := by
  unfold State.readyMeets State.issueMeets State.waitMeets
  decide +kernel

/-- At the device's maximum, 16. -/
theorem witness_SetMultipleCompletes :
    let s := disk false 4#8 (plainRun 0x50#16)
    (s.identified = true ∧ s.tag = .none ∧ s.intEnabled = false) ∧
    (s.desc.hasMultipleCmd = true ∧ (16#8).toNat ≤ s.desc.maxMultipleSectorSize.toNat) ∧ s.multipleMeets 0 1 1 1 1 := by
  unfold State.multipleMeets State.readyMeets State.issueMeets State.finishMeets State.waitMeets
  decide +kernel

theorem witness_SetMultipleRecordsOnSuccessOnly :
    (stepBench.identified = true ∧ stepBench.tag = .none ∧ stepBench.intEnabled = true) ∧
    ((disk false 4#8 []).intEnabled = false ∧
      (disk false 4#8 []).desc.maxMultipleSectorSize.toNat < (17#8).toNat) := by decide +kernel

/-- The failures of SetMultipleRecordsOnSuccessOnly: not ready, an immediate error, a timeout, a status that is not idle. -/
theorem witness_SetMultipleRecordsOnSuccessOnly_failures :
    let e := disk false 4#8 (ready ++ settle ++ [0x51#16])
    let m := disk false 4#8 (ready ++ settle ++ [0x80#16, 0x80#16, 0x80#16, 0x80#16])
    let f := disk false 4#8 (plainRun 0x58#16)
    (checkReady (disk false 4#8 [0x80#16, 0x80#16, 0x80#16])).1 = .timeout ∧
    (e.readyMeets 1 1 1 ∧ ¬ e.issueMeets 6) ∧ (m.readyMeets 1 1 1 ∧ m.issueMeets 6 ∧ m.waitMisses 7 false 9 3) ∧
    (f.readyMeets 1 1 1 ∧ f.issueMeets 6 ∧ f.waitMeets 7 false 9 1 ∧ statusIdle (f.nextByte 11) = false) := by
  unfold State.readyMeets State.issueMeets State.waitMeets State.waitMisses
  decide +kernel

/-- For OnInterruptUnitCompletes, in both directions. -/
theorem witness_OnInterruptUnitCompletes :
    let s := inFlight .read 0x1000#64 1#32 0#8 [0x58#16, 0x58#16, 1#16, 2#16]
    let u := inFlight .writeMultiple 0x1000#64 3#32 2#8 [0x58#16, 0x58#16]
    (s.unitReady ∧ statusFailed (s.nextByte 0) = false ∧ statusDrq (s.nextByte 1) = true ∧ s.tag.isRead = true) ∧
    (u.unitReady ∧ statusFailed (u.nextByte 0) = false ∧ statusDrq (u.nextByte 1) = true ∧ u.tag.isRead = false) := by
  unfold State.unitReady State.admitsRange
  decide +kernel

theorem witness_OnInterruptWithoutUnit :
    statusFailed ((bench [0x51#16]).nextByte 0) = true ∧
    (statusFailed ((bench [0x50#16]).nextByte 0) = false ∧ (bench [0x50#16]).tag = .none) ∧
    (inFlight .flushCache 0#64 0#32 0#8 [0x50#16]).tag ∈ [Tag.softReset, .flushCache, .setMultiple] ∧
    ((inFlight .write 0x2200#64 0#32 0#8 [0x50#16]).tag.isData = true ∧
      (inFlight .write 0x2200#64 0#32 0#8 [0x50#16]).remaining = 0#32) := by decide +kernel

/-- The clauses of OnInterruptWithoutUnit for a unit that is due [D6, D7]; in the last the second word is not admitted. -/
theorem witness_OnInterruptWithoutUnit_due :
    let s := inFlight .read 0x1000#64 2#32 0#8 [0x50#16, 0x80#16]
    let u : State := { inFlight .write 0x1000#64 2#32 0#8 [0x58#16, 0x58#16] with holes := [⟨0x1003, 1⟩] }
    (statusFailed (s.nextByte 0) = false ∧ s.tag.isData = true ∧ s.remaining ≠ 0#32 ∧ statusBsy (s.nextByte 1) = true) ∧
    (statusBsy ((bench [0x50#16, 0x51#16]).nextByte 1) = false ∧
      statusDrq ((bench [0x50#16, 0x51#16]).nextByte 1) = false) ∧
    (statusBsy (u.nextByte 1) = false ∧ statusDrq (u.nextByte 1) = true ∧ 1 < unitWords u ∧ u.admitsRange 0x1000 2 ∧
      (u.admits 0x1002 && u.admits 0x1003) = false) := by
  unfold State.admitsRange
  decide +kernel

theorem witness_OnInterruptEndsWithEoi : answers (exec .onInterrupt (bench [0x50#16])) = true := by decide +kernel

/-- For the four clauses of OnInterruptIdentify. -/
theorem witness_OnInterruptIdentify :
    let s : State := { bench ([0x58#16, 0x58#16] ++ answerB []) with tag := .identify }
    (s.tag = .identify ∧ statusFailed (s.nextByte 0) = false ∧ statusBsy (s.nextByte 1) = false ∧
      statusDrq (s.nextByte 1) = true ∧ (parseIdentify (identBufOf (s.nextWords 2 256))).isSome = true) ∧
    (parseIdentify (identBufOf ((bench ([0x58#16, 0x58#16] ++ answerB [(49, 0#16)])).nextWords 2 256))).isNone = true ∧
    statusBsy ((bench [0x58#16, 0x80#16]).nextByte 1) = true ∧
    statusDrq ((bench [0x58#16, 0x50#16]).nextByte 1) = false := by decide +kernel

/-- For InitializeCompletes where the device has the multiple commands. -/
theorem witness_InitializeCompletes :
    let s := bench initRun
    (s.resetMeets 0 1 ∧ s.selectMeets 6 1 ∧ s.identifyMeets 12 1 0 ∧ statusFailed (s.nextByte 278) = false ∧
      (parseIdentify (s.identifyWords 12 1)).map (fun f => f.hasMultipleCmd) = some true) ∧
    (s.multipleMeets 279 1 1 1 1 ∧ statusFailed (s.nextByte 290) = false ∧
      (s.nextByte 291).getLsbD 4 = s.cfg.driveIndex.getLsbD 0 ∧ s.drainMeets 292 1) := by
  unfold State.resetMeets State.selectMeets State.identifyMeets State.identifyDataMeets State.identifyPollMeets
    State.identifyIssueMeets State.multipleMeets State.readyMeets State.issueMeets State.finishMeets State.waitMeets
    State.drainMeets
  decide +kernel

/-- For InitializeCompletes where the device has no multiple commands, and where the read-back names the other drive. -/
theorem witness_InitializeCompletes_plain :
    let s := bench (initStart ++ identifyRun [(47, 0#16)] 0x50#16 ++ [0xA0#16] ++ [0x58#16, 0x58#16, 0x1111#16, 0x50#16])
    let u := bench (initStart ++ identifyRun [(47, 0#16)] 0x50#16 ++ [0xB0#16])
    (s.resetMeets 0 1 ∧ s.selectMeets 6 1 ∧ s.identifyMeets 12 1 0 ∧ statusFailed (s.nextByte 278) = false ∧
      (parseIdentify (s.identifyWords 12 1)).map (fun f => f.hasMultipleCmd) = some false) ∧
    ((s.nextByte 279).getLsbD 4 = s.cfg.driveIndex.getLsbD 0 ∧ s.drainMeets 280 1) ∧
    (u.nextByte 279).getLsbD 4 ≠ u.cfg.driveIndex.getLsbD 0 := by
  unfold State.resetMeets State.selectMeets State.identifyMeets State.identifyDataMeets State.identifyPollMeets
    State.identifyIssueMeets State.issueMeets State.finishMeets State.waitMeets State.drainMeets
  decide +kernel

/-- At the budget, below it, and with no stale word. -/
theorem witness_DrainDiscardsStaleWords :
    (bench [0x58#16, 0x58#16, 1#16, 0x58#16, 2#16]).drainMeets 0 2 ∧
    (bench [0x58#16, 0x58#16, 1#16, 0x50#16]).drainMeets 0 1 ∧ (bench [0x58#16, 0x50#16]).drainMeets 0 0 := by
  unfold State.drainMeets
  decide +kernel

theorem witness_SetInterruptModeRule :
    (bench []).tag = .none ∧ (inFlight .read 0x1000#64 2#32 0#8 []).tag ≠ .none := by decide +kernel

end Sys2Proof.Tests
end

/-! Proofs about the reset state and the port writes of a step (spec/10_state.md). Which ports share a register, the
single events the block can make (`BlockEvent`), and the two statements settled from them. -/

namespace Sys2Proof.Machine

/-! ### Ports (00_scope.md R11) -/

/-- The offset of a port symbol's register: 0 to 7 from `IO_BASE`, and 8 for the register at `CTRL_BASE`. -/
def Port.offset : Port → Nat
  | .data => 0
  | .error | .features => 1
  | .count => 2
  | .lbaLo => 3
  | .lbaMid => 4
  | .lbaHi => 5
  | .drvHead => 6
  | .status | .command => 7
  | .altStatus | .devCtl => 8

theorem Port.offset_le (p : Port) : p.offset ≤ 8 := by cases p <;> decide

theorem portAddr_eq_offset (c : Config) (p : Port) :
    portAddr c p = if p.offset < 8 then c.ioBase + BitVec.ofNat 16 p.offset else c.ctrlBase := by
  cases p <;> simp [portAddr, Port.offset]

theorem ctrlBase_distance_of_wf {c : Config} (hc : c.wf = true) : 8 ≤ (c.ctrlBase - c.ioBase).toNat := by
  simp only [Config.wf, Bool.and_eq_true, decide_eq_true_eq] at hc
  exact hc.2

theorem ioBase_offset_ne_ctrlBase {c : Config} (hc : c.wf = true) {n : Nat} (hn : n < 8) :
    c.ioBase + BitVec.ofNat 16 n ≠ c.ctrlBase := by
  intro he
  have hd := ctrlBase_distance_of_wf hc
  rw [← he, add_sub_cancel_left, BitVec.toNat_ofNat] at hd
  omega

/-- With parameters in their ranges, two port symbols share an address only where they name one register. -/
theorem portAddr_eq_iff {c : Config} (hc : c.wf = true) (p q : Port) :
    portAddr c p = portAddr c q ↔ p.offset = q.offset := by
  have hp := p.offset_le
  have hq := q.offset_le
  rw [portAddr_eq_offset, portAddr_eq_offset]
  by_cases hp8 : p.offset < 8 <;> by_cases hq8 : q.offset < 8 <;> simp only [hp8, hq8, if_true, if_false]
  · bv_omega
  · exact iff_of_false (ioBase_offset_ne_ctrlBase hc hp8) (by omega)
  · exact iff_of_false (ioBase_offset_ne_ctrlBase hc hq8).symm (by omega)
  · exact iff_of_true trivial (by omega)

/-! ### The single events of the block -/

/-- The task-file registers that a command image or a drive select writes before any opcode (30_encoding.md R100). -/
def Port.IsTaskFile (p : Port) : Prop := p = .drvHead ∨ p = .count ∨ p = .lbaLo ∨ p = .lbaMid ∨ p = .lbaHi

/-- The events an operation of the block can make, the rarer ones only where `g` grants them. -/
inductive BlockEvent (c : Config) (g : Grants) : Event → Prop where
  | altRead (v : Byte) : BlockEvent c g (.portRead8 (portAddr c .altStatus) v)
  | errorRead (v : Byte) : BlockEvent c g (.portRead8 (portAddr c .error) v)
  | drvHeadRead (v : Byte) : BlockEvent c g (.portRead8 (portAddr c .drvHead) v)
  | statusRead (hg : g.status) (v : Byte) : BlockEvent c g (.portRead8 (portAddr c .status) v)
  | dataRead (v : Word) : BlockEvent c g (.portRead16 (portAddr c .data) v)
  | dataWrite (hg : g.memory) (v : Word) : BlockEvent c g (.portWrite16 (portAddr c .data) v)
  | taskWrite (p : Port) (v : Byte) (hp : p.IsTaskFile) : BlockEvent c g (.portWrite8 (portAddr c p) v)
  | devCtlWrite (v : Byte) (hv : v = 0x06#8 ∨ v = 0x02#8 ∨ v = 0x00#8) :
      BlockEvent c g (.portWrite8 (portAddr c .devCtl) v)
  | commandWrite (op : AtaOpcode) : BlockEvent c g (.portWrite8 (portAddr c .command) (opcodeByte op))
  | delay : BlockEvent c g .ioDelay
  | memRead (hg : g.memory) (a : Nat) (v : Word) : BlockEvent c g (.memRead a v)
  | memWrite (hg : g.memory) (a : Nat) (v : Word) : BlockEvent c g (.memWrite a v)
  | maskLine (hg : g.mask) : BlockEvent c g (.maskLine c.irqLine)
  | unmaskLine (hg : g.mask) : BlockEvent c g (.unmaskLine c.irqLine)
  | sendEOI (hg : g.eoi) : BlockEvent c g (.sendEOI c.irqLine)

/-- Runs made of block events only. -/
def BlockEvents (c : Config) (g : Grants) (evs : List Event) : Prop := ∀ e ∈ evs, BlockEvent c g e

theorem blockEvents_singleton {c : Config} {g : Grants} {e : Event} (h : BlockEvent c g e) : BlockEvents c g [e] := by
  simpa [BlockEvents] using h

theorem BlockEvents.append {c : Config} {g : Grants} {a b : List Event} (ha : BlockEvents c g a)
    (hb : BlockEvents c g b) : BlockEvents c g (a ++ b) :=
  List.forall_mem_append.2 ⟨ha, hb⟩

theorem blockEvents_altReads (c : Config) (g : Grants) (vs : List Byte) :
    BlockEvents c g (vs.map (.portRead8 (portAddr c .altStatus))) :=
  List.forall_mem_map.2 fun v _ => .altRead v

theorem blockEvents_traceRule (c : Config) (g : Grants) : TraceRule c g (BlockEvents c g) where
  nil := List.forall_mem_nil _
  append _ _ ha hb := hb.append ha
  altRead v := blockEvents_singleton (.altRead v)
  errorRead v := blockEvents_singleton (.errorRead v)
  drvHeadRead v := blockEvents_singleton (.drvHeadRead v)
  statusRead hg v := blockEvents_singleton (.statusRead hg v)
  dataRead v := blockEvents_singleton (.dataRead v)
  dataWrite hg v := blockEvents_singleton (.dataWrite hg v)
  taskWrite p v hp := blockEvents_singleton (.taskWrite p v hp)
  devCtlWrite v hv := blockEvents_singleton (.devCtlWrite v hv)
  commandWrite op vs _ := (blockEvents_altReads c g vs).append (blockEvents_singleton (.commandWrite op))
  delay := blockEvents_singleton .delay
  memRead hg a v := blockEvents_singleton (.memRead hg a v)
  memWrite hg a v := blockEvents_singleton (.memWrite hg a v)
  maskLine hg := blockEvents_singleton (.maskLine hg)
  unmaskLine hg := blockEvents_singleton (.unmaskLine hg)
  sendEOI hg := blockEvents_singleton (.sendEOI hg)

/-! ### What a step adds to the trace -/

/-- A step that answers either waits or runs one instruction. -/
theorem step_cases {s t : State} (h : step s = .next t) :
    (s.requests = [] ∧ t = s) ∨ ∃ i, exec i s.takeRequest = .next t := by
  unfold step at h
  split at h
  · next hr =>
    cases h
    exact .inl ⟨hr, rfl⟩
  · split at h
    · next i _ => exact .inr ⟨i, h⟩
    · cases h

/-- An instruction adds only the events of the block that it is granted. -/
theorem exec_adds_blockEvents {i : Instr} {s t : State} (h : exec i s = .next t) :
    ∃ evs, AddsEvents s t evs ∧ BlockEvents s.cfg (grantsOf i) evs := by
  obtain ⟨_, evs, hevs, htrace⟩ := exec_traces (blockEvents_traceRule s.cfg (grantsOf i)) h rfl
  exact ⟨evs.reverse, by simpa [AddsEvents] using htrace, fun e he => hevs e (List.mem_reverse.1 he)⟩

/-- A step adds only events of the block, with the grants of the instruction it runs. -/
theorem step_adds_blockEvents {s t : State} (h : step s = .next t) :
    ∃ g evs, AddsEvents s t evs ∧ BlockEvents s.cfg g evs := by
  obtain ⟨_, rfl⟩ | ⟨i, hi⟩ := step_cases h
  · exact ⟨⟨False, False, False, False⟩, [], rfl, List.forall_mem_nil _⟩
  · exact ⟨grantsOf i, exec_adds_blockEvents (s := s.takeRequest) hi⟩

/-! ### The byte writes of the block -/

/-- The three kinds of byte writes. -/
theorem BlockEvent.portWrite8_cases {c : Config} {g : Grants} {a : Word} {v : Byte}
    (h : BlockEvent c g (.portWrite8 a v)) :
    (∃ p : Port, p.IsTaskFile ∧ a = portAddr c p) ∨
    (a = portAddr c .devCtl ∧ (v = 0x06#8 ∨ v = 0x02#8 ∨ v = 0x00#8)) ∨
    (a = portAddr c .command ∧ ∃ op, v = opcodeByte op) := by
  cases h with
  | taskWrite p _ hp => exact .inl ⟨p, hp, rfl⟩
  | devCtlWrite _ hv => exact .inr (.inl ⟨rfl, hv⟩)
  | commandWrite op => exact .inr (.inr ⟨rfl, op, rfl⟩)

/-- The task-file registers lie strictly between Features and Command. -/
theorem Port.IsTaskFile.offset_bounds {p : Port} (hp : p.IsTaskFile) : 2 ≤ p.offset ∧ p.offset ≤ 6 := by
  obtain rfl | rfl | rfl | rfl | rfl := hp <;> decide

/-- 10_state.md R44. -/
theorem not_blockEvent_featuresWrite {c : Config} (hc : c.wf = true) (g : Grants) (v : Byte) :
    ¬ BlockEvent c g (.portWrite8 (portAddr c .features) v) := by
  intro h
  obtain ⟨p, hp, ha⟩ | ⟨ha, _⟩ | ⟨ha, _⟩ := h.portWrite8_cases
  · have hb := hp.offset_bounds
    have ho : 1 = p.offset := (portAddr_eq_iff hc .features p).1 ha
    omega
  · exact absurd ((portAddr_eq_iff hc .features .devCtl).1 ha) (by decide)
  · exact absurd ((portAddr_eq_iff hc .features .command).1 ha) (by decide)

/-- 10_state.md R49. -/
theorem BlockEvent.devCtlWrite_value {c : Config} (hc : c.wf = true) {g : Grants} {v : Byte}
    (h : BlockEvent c g (.portWrite8 (portAddr c .devCtl) v)) : v = 0x06#8 ∨ v = 0x02#8 ∨ v = 0x00#8 := by
  obtain ⟨p, hp, ha⟩ | ⟨_, hv⟩ | ⟨ha, _⟩ := h.portWrite8_cases
  · have hb := hp.offset_bounds
    have ho : 8 = p.offset := (portAddr_eq_iff hc .devCtl p).1 ha
    omega
  · exact hv
  · exact absurd ((portAddr_eq_iff hc .devCtl .command).1 ha) (by decide)

/-! ### The statements -/

/-- Settles O13: every event of a step is one of `BlockEvent`, and its byte writes go to the task file, to Device Control
with one of the three values, or to Command; Features is none of these registers. -/
theorem deviceControlAndFeaturesWrites : Obligations.DeviceControlAndFeaturesWrites := by
  intro s t hc h
  obtain ⟨g, evs, hadds, hevs⟩ := step_adds_blockEvents h
  exact ⟨evs, hadds, fun v =>
    ⟨fun hf => not_blockEvent_featuresWrite hc g v (hevs _ hf), fun hd => (hevs _ hd).devCtlWrite_value hc⟩⟩

/-- Settles O4: each field of `State.reset` and `Descriptor.reset` is written with the stated value. -/
theorem resetStateAsStated : Obligations.ResetStateAsStated :=
  ⟨rfl, rfl, rfl, rfl, rfl, rfl, rfl⟩

end Sys2Proof.Machine

/-! Proofs about the memory and the ports of the block (spec/20_memory.md): the width of every port access a step makes
(R72), and the word access of caller memory (R77). -/

namespace Sys2Proof.Machine

/-! ### Access widths (20_memory.md R72) -/

theorem Port.offset_ne_data {p : Port} (hp : p ≠ .data) : p.offset ≠ Port.data.offset := by
  cases p with
  | data => exact absurd rfl hp
  | _ => decide

/-- A byte access to any port symbol but Data has the width of its register. -/
theorem widthOk_byteAccess {c : Config} (hc : c.wf = true) {p : Port} (hp : p ≠ .data) (v : Byte) :
    widthOk c (.portRead8 (portAddr c p) v) ∧ widthOk c (.portWrite8 (portAddr c p) v) := by
  have hne : portAddr c p ≠ portAddr c .data := mt (portAddr_eq_iff hc p .data).1 (Port.offset_ne_data hp)
  refine and_self_iff.2 ⟨hne, ?_⟩
  cases p <;> simp [portAddr] at hp ⊢

theorem Port.IsTaskFile.ne_data {p : Port} (hp : p.IsTaskFile) : p ≠ .data := by
  rintro rfl
  exact absurd hp.offset_bounds (by decide)

/-- The word accesses of the block go to Data, its byte accesses to the other registers. -/
theorem BlockEvent.widthOk {c : Config} (hc : c.wf = true) {g : Grants} {e : Event} (h : BlockEvent c g e) :
    widthOk c e := by
  cases h with
  | dataRead | dataWrite => rfl
  | altRead v | errorRead v | drvHeadRead v | statusRead _ v => exact (widthOk_byteAccess hc (by decide) v).1
  | taskWrite p v hp => exact (widthOk_byteAccess hc hp.ne_data v).2
  | devCtlWrite v _ => exact (widthOk_byteAccess hc (by decide) v).2
  | commandWrite op => exact (widthOk_byteAccess hc (by decide) _).2
  | delay | memRead | memWrite | maskLine | unmaskLine | sendEOI => trivial

/-- Settles O10: every event of a step is one of `BlockEvent`, and each of these has the width of its register. -/
theorem stepUsesDeclaredWidths : Obligations.StepUsesDeclaredWidths := by
  intro s t hc h
  obtain ⟨g, evs, hadds, hevs⟩ := step_adds_blockEvents h
  exact ⟨evs, hadds, fun e he => (hevs e he).widthOk hc⟩

/-! ### Words of caller memory (20_memory.md R77) -/

/-- The high byte above the low byte is the word. -/
theorem word_bytes (v : Word) : v.extractLsb' 8 8 ++ v.extractLsb' 0 8 = v :=
  (BitVec.extractLsb'_append_extractLsb'_eq_extractLsb' rfl).trans BitVec.extractLsb'_eq_self

/-- Every byte of caller memory after `MemWrite(a, 2, v)`. -/
theorem memWrite16_read {a : Nat} {v : Word} {s t : State} (hm : Memory.wf s.mem = true)
    (h : memWrite16 a v s = .ok t) (x : Nat) :
    Memory.read t.mem x =
      if x = a + 1 then v.extractLsb' 8 8 else if x = a then v.extractLsb' 0 8 else Memory.read s.mem x := by
  obtain ⟨_, _, rfl⟩ := memWrite16_eq_ok h
  rw [Memory.read_write _ _ _ (Memory.wf_write _ _ hm), Memory.read_write _ _ _ hm]

/-- Both bytes of a word that was written are admitted afterwards too: writing does not move the holes. -/
theorem memWrite16_admits {a : Nat} {v : Word} {s t : State} (h : memWrite16 a v s = .ok t) :
    t.admits a = true ∧ t.admits (a + 1) = true := by
  obtain ⟨ha, ha1, rfl⟩ := memWrite16_eq_ok h
  exact ⟨ha, ha1⟩

/-- `MemRead(a, 2)` answers the word at `a` where both its bytes are admitted. -/
theorem memRead16_of_admits {a : Nat} {s : State} (ha : s.admits a = true) (ha1 : s.admits (a + 1) = true) :
    memRead16 a s = .ok (Memory.word s.mem a, s.emit (.memRead a (Memory.word s.mem a))) := by
  simp [memRead16, ha, ha1, Memory.word]

/-- Settles O45: the two bytes of a written word and the bytes beside it by `memWrite16_read`, the word read back from
them by `word_bytes`. -/
theorem callerWordRoundTrip : Obligations.CallerWordRoundTrip := by
  intro s t a v hm h
  have hread := memWrite16_read hm h
  have hlow : Memory.read t.mem a = v.extractLsb' 0 8 := by simp [hread]
  have hhigh : Memory.read t.mem (a + 1) = v.extractLsb' 8 8 := by simp [hread]
  have hword : Memory.word t.mem a = v := by rw [Memory.word, hlow, hhigh, word_bytes]
  obtain ⟨ha, ha1⟩ := memWrite16_admits h
  refine ⟨hlow, hhigh, fun x hxa hxa1 => by rw [hread, if_neg hxa1, if_neg hxa], ?_, fun r hr => ?_⟩
  · rw [memRead16_of_admits ha ha1, hword]
  · obtain ⟨_, _, hvalue, _⟩ := memRead16_eq_ok hr
    exact hvalue

end Sys2Proof.Machine

/-! Proofs about the encoding of read and write commands (spec/30_encoding.md): the opcode the block selects, the bytes
of the register image as arithmetic on the operands, and the events of an image. -/

namespace Sys2Proof.Machine

/-! ### Opcode selection (R111) -/

/-- The read opcode, by the two conditions of R111. -/
theorem opcodeByte_selectOpcode_read (d : Descriptor) :
    opcodeByte (selectOpcode d .read) =
      if d.hasLba48 then (if multipleOn d then 0x29#8 else 0x24#8) else (if multipleOn d then 0xC4#8 else 0x20#8) := by
  cases hl : d.hasLba48 <;> cases hm : multipleOn d <;> simp [selectOpcode, hl, hm, opcodeByte]

/-- The write opcode, by the two conditions of R111. -/
theorem opcodeByte_selectOpcode_write (d : Descriptor) :
    opcodeByte (selectOpcode d .write) =
      if d.hasLba48 then (if multipleOn d then 0x39#8 else 0x34#8) else (if multipleOn d then 0xC5#8 else 0x30#8) := by
  cases hl : d.hasLba48 <;> cases hm : multipleOn d <;> simp [selectOpcode, hl, hm, opcodeByte]

/-- Settles O33: the condition `m` of the statement is `multipleOn`, and each direction has its lemma. -/
theorem opcodeSelection : Obligations.OpcodeSelection := fun d =>
  ⟨opcodeByte_selectOpcode_read d, opcodeByte_selectOpcode_write d⟩

/-! ### The bytes of an image (R47, R102, R103) -/

/-- Byte `k` of a sector index or count is its quotient by `2 ^ (8 * k)`, cut to a byte. -/
theorem dwordByte_eq_ofNat (v : DWord) (k : Nat) : dwordByte v k = BitVec.ofNat 8 (v.toNat / 2 ^ (8 * k)) := by
  apply BitVec.eq_of_toNat_eq
  rw [dwordByte, BitVec.extractLsb'_toNat, BitVec.toNat_ofNat, Nat.shiftRight_eq_div_pow]

/-- The three fields of the Drive/Head byte do not overlap, so joining them is adding them. -/
theorem drvHeadByte_eq_ofNat (dev : BitVec 1) (low : BitVec 4) :
    drvHeadByte dev low = BitVec.ofNat 8 (0xE0 + 16 * dev.toNat + low.toNat) := by
  revert dev low
  decide

/-- Bits 24 to 27 of a sector index, the low field of the Drive/Head byte in format LBA28. -/
theorem lba28Nibble_toNat (start : DWord) : (start.extractLsb' 24 4).toNat = start.toNat / 2 ^ 24 % 16 := by
  rw [BitVec.extractLsb'_toNat, Nat.shiftRight_eq_div_pow]

/-- The LBA28 register writes before the opcode, by arithmetic on the operands. -/
theorem imageLba28_eq_ofNat (dev : BitVec 1) (start count : DWord) :
    imageLba28 dev start count =
      [(.drvHead, BitVec.ofNat 8 (0xE0 + 16 * dev.toNat + start.toNat / 2 ^ 24 % 16)),
       (.count, BitVec.ofNat 8 count.toNat), (.lbaLo, BitVec.ofNat 8 start.toNat),
       (.lbaMid, BitVec.ofNat 8 (start.toNat / 2 ^ 8)), (.lbaHi, BitVec.ofNat 8 (start.toNat / 2 ^ 16))] := by
  simp only [imageLba28, drvHeadByte_eq_ofNat, lba28Nibble_toNat, dwordByte_eq_ofNat, Nat.mul_zero, Nat.pow_zero,
    Nat.div_one, Nat.reduceMul]

/-- The LBA48 register writes before the opcode, by arithmetic on the operands. -/
theorem imageLba48_eq_ofNat (dev : BitVec 1) (start count : DWord) :
    imageLba48 dev start count =
      [(.drvHead, BitVec.ofNat 8 (0xE0 + 16 * dev.toNat)), (.count, BitVec.ofNat 8 (count.toNat / 2 ^ 8)),
       (.lbaLo, BitVec.ofNat 8 (start.toNat / 2 ^ 24)), (.lbaMid, 0x00#8), (.lbaHi, 0x00#8),
       (.count, BitVec.ofNat 8 count.toNat), (.lbaLo, BitVec.ofNat 8 start.toNat),
       (.lbaMid, BitVec.ofNat 8 (start.toNat / 2 ^ 8)), (.lbaHi, BitVec.ofNat 8 (start.toNat / 2 ^ 16))] := by
  simp only [imageLba48, drvHeadByte_eq_ofNat, dwordByte_eq_ofNat, Nat.mul_zero, Nat.pow_zero, Nat.div_one,
    Nat.reduceMul, BitVec.toNat_zero, Nat.add_zero]

/-! ### The events of an image (R100) -/

/-- Issuing a command makes the register writes of its image and then the opcode write; setting the tag and the cursor
makes no event. -/
theorem issueImage_addsEvents (op : AtaOpcode) (buf : Addr) (start count : DWord) (s : State) :
    AddsEvents s (issueImage op buf start count s)
      (imageEvents s.cfg (imageRW s.desc.hasLba48 s.selectedDrive start count) ++ [commandEvent s.cfg op]) := by
  have hrun : portWrite8 .command (opcodeByte op) (portWrites (imageRW s.desc.hasLba48 s.selectedDrive start count) s) =
      s.ranIo 0 (imageEvents s.cfg (imageRW s.desc.hasLba48 s.selectedDrive start count) ++ [commandEvent s.cfg op]) := by
    rw [portWrites_eq, portWrite8_eq, State.ranIo_ranIo]
    rfl
  exact congrArg State.trace hrun

/-- Settles O34: `issueImage_addsEvents` gives the events, the format picks the image, and `imageLba28_eq_ofNat` or
`imageLba48_eq_ofNat` gives its bytes. -/
theorem taskFileImages : Obligations.TaskFileImages := by
  intro op buf start count s p byte
  have hevs := issueImage_addsEvents op buf start count s
  refine ⟨fun h28 => ?_, fun h48 => ?_⟩
  · rw [h28, imageRW, if_neg Bool.false_ne_true, imageLba28_eq_ofNat] at hevs
    exact hevs
  · rw [h48, imageRW, if_pos rfl, imageLba48_eq_ofNat] at hevs
    exact hevs

end Sys2Proof.Machine

/-! Proofs about the register protocol layer (spec/40_register_protocol.md). Each operation is given as a run `State.ranIo`
from any place of the device's answers, `s.ranIo k e`, so that a later operation can use it after other port reads. -/

namespace Sys2Proof.Machine

/-! ### The primitives after a run -/

theorem State.waitMeets_ranIo (s : State) (bit : Nat) (target : Bool) (a k n : Nat) (e : List Event) :
    (s.ranIo a e).waitMeets bit target k n ↔ s.waitMeets bit target (a + k) n := by
  simp only [State.waitMeets, State.nextByte_ranIo, Nat.add_assoc]

theorem State.waitMisses_ranIo (s : State) (bit : Nat) (target : Bool) (a k n : Nat) (e : List Event) :
    (s.ranIo a e).waitMisses bit target k n ↔ s.waitMisses bit target (a + k) n := by
  simp only [State.waitMisses, State.nextByte_ranIo, Nat.add_assoc]

theorem altStatusRead_ranIo (s : State) (a : Nat) (e : List Event) :
    portRead8 .altStatus (s.ranIo a e) = (s.nextByte a, s.ranIo (a + 1) (e ++ [s.altRead a])) := by
  rw [portRead8_eq, State.nextByte_ranIo, State.ranIo_ranIo]
  rfl

theorem portWrite8_ranIo (p : Port) (v : Byte) (s : State) (a : Nat) (e : List Event) :
    portWrite8 p v (s.ranIo a e) = s.ranIo a (e ++ [.portWrite8 (portAddr s.cfg p) v]) := by
  rw [portWrite8_eq, State.ranIo_ranIo]
  rfl

theorem ioDelays_ranIo (n : Nat) (s : State) (a : Nat) (e : List Event) :
    ioDelays n (s.ranIo a e) = s.ranIo a (e ++ List.replicate n .ioDelay) := by
  rw [ioDelays_eq, State.ranIo_ranIo]
  rfl

theorem wait400_ranIo (s : State) (a : Nat) (e : List Event) :
    wait400 (s.ranIo a e) = s.ranIo (a + s.cfg.wait400Reads) (e ++ s.altReads a s.cfg.wait400Reads) := by
  rw [wait400, altStatusReads_eq, State.ranIo_ranIo, State.altReads_ranIo]
  rfl

/-! ### Bounded waits (R140) -/

/-- The first attempt decides: it succeeds, or it was the last one, or an `IoDelay` follows and the rest of the budget. -/
theorem waitBit_succ (bit : Nat) (target : Bool) (n : Nat) (s : State) :
    waitBit bit target (n + 1) s =
      if (s.nextByte 0).getLsbD bit = target then (.ok, s.ranIo 1 [s.altRead 0])
      else if n = 0 then (.timeout, s.ranIo 1 [s.altRead 0])
      else waitBit bit target n (s.ranIo 1 [s.altRead 0, .ioDelay]) := by
  simp only [waitBit, portRead8_eq, ioDelay, emit_eq, State.ranIo_ranIo]
  rfl

/-- The events of the first attempt, its delay, and the attempts after it are those of all the attempts. -/
theorem State.ranIo_attempts_succ (s : State) (n : Nat) :
    (s.ranIo 1 [s.altRead 0, .ioDelay]).ranIo (n + 1) ((s.ranIo 1 [s.altRead 0, .ioDelay]).attempts 0 (n + 1)) =
      s.ranIo (n + 2) (s.attempts 0 (n + 2)) := by
  rw [State.attempts_ranIo, State.ranIo_ranIo, State.attempts_succ_succ, Nat.add_comm 1 (n + 1)]
  rfl

/-- A wait whose attempt `k` is the first to see the target. -/
theorem waitBit_of_waitMeets {bit : Nat} {target : Bool} {budget k : Nat} {s : State} (hk : k < budget)
    (h : s.waitMeets bit target 0 k) :
    waitBit bit target budget s = (.ok, s.ranIo (k + 1) (s.attempts 0 (k + 1))) := by
  induction budget generalizing k s with
  | zero => exact absurd hk (Nat.not_lt_zero k)
  | succ n ih =>
    obtain ⟨hmiss, hhit⟩ := h
    rw [waitBit_succ]
    cases k with
    | zero => exact if_pos hhit
    | succ k =>
      have hrest : (s.ranIo 1 [s.altRead 0, .ioDelay]).waitMeets bit target 0 k := by
        rw [State.waitMeets_ranIo]
        exact ⟨fun j hj => by simpa [Nat.add_comm, Nat.add_left_comm] using hmiss (j + 1) (by omega),
          by simpa [Nat.add_comm, Nat.add_left_comm] using hhit⟩
      rw [if_neg (hmiss 0 (by omega)), if_neg (by omega), ih (by omega) hrest, State.ranIo_attempts_succ]

/-- A wait none of whose attempts sees the target. -/
theorem waitBit_of_waitMisses {bit : Nat} {target : Bool} {budget : Nat} {s : State}
    (h : s.waitMisses bit target 0 budget) :
    waitBit bit target budget s = (.timeout, s.ranIo budget (s.attempts 0 budget)) := by
  induction budget generalizing s with
  | zero => exact congrArg (Prod.mk ResultCode.timeout) (State.ranIo_zero s).symm
  | succ n ih =>
    rw [waitBit_succ, if_neg (h 0 (by omega))]
    cases n with
    | zero => exact if_pos rfl
    | succ n =>
      have hrest : (s.ranIo 1 [s.altRead 0, .ioDelay]).waitMisses bit target 0 (n + 1) := by
        rw [State.waitMisses_ranIo]
        exact fun j hj => by simpa [Nat.add_comm, Nat.add_left_comm] using h (j + 1) (by omega)
      rw [if_neg (by omega), ih hrest, State.ranIo_attempts_succ]

theorem waitBit_ranIo_of_waitMeets {bit : Nat} {target : Bool} {budget a k : Nat} {s : State} {e : List Event}
    (hk : k < budget) (h : s.waitMeets bit target a k) :
    waitBit bit target budget (s.ranIo a e) = (.ok, s.ranIo (a + k + 1) (e ++ s.attempts a (k + 1))) := by
  rw [waitBit_of_waitMeets hk ((State.waitMeets_ranIo ..).2 h), State.ranIo_ranIo, State.attempts_ranIo]
  rfl

theorem waitBit_ranIo_of_waitMisses {bit : Nat} {target : Bool} {budget a : Nat} {s : State} {e : List Event}
    (h : s.waitMisses bit target a budget) :
    waitBit bit target budget (s.ranIo a e) = (.timeout, s.ranIo (a + budget) (e ++ s.attempts a budget)) := by
  rw [waitBit_of_waitMisses ((State.waitMisses_ranIo ..).2 h), State.ranIo_ranIo, State.attempts_ranIo]
  rfl

theorem pollBusy_ranIo_of_waitMeets {budget a k : Nat} {s : State} {e : List Event} (hk : k < budget)
    (h : s.waitMeets 7 false a k) :
    pollBusy budget (s.ranIo a e) = (.ok, s.ranIo (a + k + 1) (e ++ s.attempts a (k + 1))) :=
  waitBit_ranIo_of_waitMeets hk h

theorem pollBusy_ranIo_of_waitMisses {budget a : Nat} {s : State} {e : List Event}
    (h : s.waitMisses 7 false a budget) :
    pollBusy budget (s.ranIo a e) = (.timeout, s.ranIo (a + budget) (e ++ s.attempts a budget)) :=
  waitBit_ranIo_of_waitMisses h

/-! ### How operations end and chain -/

theorem finish_eq_next {r : OpOut} {c : ResultCode} {t : State} (h : r = (c, t)) :
    finish r = .next (t.setResult c .none) := by
  rw [h]
  rfl

@[simp] theorem andThen_ok (s : State) (k : State → OpOut) : OpOut.andThen (.ok, s) k = k s := rfl

@[simp] theorem andThen_timeout (s : State) (k : State → OpOut) : OpOut.andThen (.timeout, s) k = (.timeout, s) := rfl

/-- A single-shot test is one read (R144 to R146). -/
theorem statusTest_eq (test : Byte → Bool) (s : State) :
    statusTest test s = .next ((s.ranIo 1 [s.altRead 0]).setResult .ok (.bool (test (s.nextByte 0)))) := by
  simp only [statusTest, portRead8_eq, finishValue]
  rfl

/-! ### Drive select (R150) -/

theorem bsy_or_drq_eq_not_idle (b : Byte) : (statusBsy b || statusDrq b) = !statusIdle b := by
  simp [statusIdle]

theorem drvHeadByte_zero (dev : BitVec 1) : drvHeadByte dev 0#4 = 0xE0#8 ||| (dev.setWidth 8 <<< 4) :=
  BitVec.or_zero

/-- The check after the poll of a drive select: one status read, and the drive recorded where it shows no failure. -/
def selectCheck (dev1 : BitVec 1) (s : State) : OpOut :=
  let q := portRead8 .altStatus s
  if statusFailed q.1 then (.deviceError, q.2) else (.ok, q.2.setSelectedDrive dev1)

theorem selectCheck_ranIo (dev1 : BitVec 1) (s : State) (a : Nat) (e : List Event) :
    selectCheck dev1 (s.ranIo a e) =
      if statusFailed (s.nextByte a) then (.deviceError, s.ranIo (a + 1) (e ++ [s.altRead a]))
      else (.ok, (s.ranIo (a + 1) (e ++ [s.altRead a])).setSelectedDrive dev1) := by
  simp only [selectCheck, altStatusRead_ranIo]

theorem driveSelect_of_active {dev1 : BitVec 1} {s : State} (ht : s.tag ≠ .none) :
    driveSelect dev1 s = (.protocolViolation, s) := if_pos ht

section

variable {dev1 : BitVec 1} {s : State} {k p : Nat} {e : List Event}

theorem driveSelect_ranIo_of_not_idle (ht : s.tag = .none) (hi : statusIdle (s.nextByte k) = false) :
    driveSelect dev1 (s.ranIo k e) = (.protocolViolation, s.ranIo (k + 1) (e ++ [s.altRead k])) := by
  simp only [driveSelect, altStatusRead_ranIo, State.ranIo_tag, ht, bsy_or_drq_eq_not_idle, hi, ne_eq, not_true,
    Bool.not_false, if_false, if_true]

/-- Past its preconditions a drive select is the head, the poll and the check. -/
theorem driveSelect_ranIo_of_idle (ht : s.tag = .none) (hi : statusIdle (s.nextByte k) = true) :
    driveSelect dev1 (s.ranIo k e) =
      OpOut.andThen (pollBusy s.cfg.selectBudget (s.ranIo (k + s.cfg.wait400Reads + 1) (e ++ s.selectHead dev1 k)))
        (selectCheck dev1) := by
  have hhead : wait400 (portWrite8 .drvHead (drvHeadByte dev1 0#4) (s.ranIo (k + 1) (e ++ [s.altRead k]))) =
      s.ranIo (k + s.cfg.wait400Reads + 1) (e ++ s.selectHead dev1 k) := by
    rw [portWrite8_ranIo, wait400_ranIo, drvHeadByte_zero, State.selectHead, Nat.add_right_comm]
    simp
  simp only [driveSelect, altStatusRead_ranIo, State.ranIo_tag, ht, bsy_or_drq_eq_not_idle, hi, hhead, ne_eq,
    not_true, Bool.not_true, Bool.false_eq_true, if_false]
  rfl

theorem driveSelect_ranIo_of_waitMisses (ht : s.tag = .none) (hi : statusIdle (s.nextByte k) = true)
    (hp : s.waitMisses 7 false (k + s.cfg.wait400Reads + 1) s.cfg.selectBudget) :
    driveSelect dev1 (s.ranIo k e) =
      (.timeout, s.ranIo (k + s.cfg.wait400Reads + 1 + s.cfg.selectBudget)
        (e ++ (s.selectHead dev1 k ++ s.attempts (k + s.cfg.wait400Reads + 1) s.cfg.selectBudget))) := by
  rw [driveSelect_ranIo_of_idle ht hi, pollBusy_ranIo_of_waitMisses hp, andThen_timeout, List.append_assoc]

/-- A drive select whose poll ends at the attempt `p`: the last status decides. -/
theorem driveSelect_ranIo_of_waitMeets (ht : s.tag = .none) (hi : statusIdle (s.nextByte k) = true)
    (hp : p < s.cfg.selectBudget) (hm : s.waitMeets 7 false (k + s.cfg.wait400Reads + 1) p) :
    driveSelect dev1 (s.ranIo k e) =
      if statusFailed (s.nextByte (k + s.cfg.wait400Reads + p + 2)) then
        (.deviceError, s.ranIo (k + s.cfg.wait400Reads + p + 3) (e ++ s.selectEvents dev1 k p))
      else (.ok, (s.ranIo (k + s.cfg.wait400Reads + p + 3) (e ++ s.selectEvents dev1 k p)).setSelectedDrive dev1) := by
  have hcount : k + s.cfg.wait400Reads + 1 + p + 1 = k + s.cfg.wait400Reads + p + 2 := by omega
  rw [driveSelect_ranIo_of_idle ht hi, pollBusy_ranIo_of_waitMeets hp hm, andThen_ok, selectCheck_ranIo, hcount,
    State.selectEvents]
  simp only [List.append_assoc]

/-- A drive select that succeeds. -/
theorem driveSelect_ranIo_of_selectMeets (ht : s.tag = .none) (h : s.selectMeets k p) :
    driveSelect dev1 (s.ranIo k e) =
      (.ok, (s.ranIo (k + s.cfg.wait400Reads + p + 3) (e ++ s.selectEvents dev1 k p)).setSelectedDrive dev1) := by
  obtain ⟨hi, hp, hm, hf⟩ := h
  rw [driveSelect_ranIo_of_waitMeets ht hi hp hm, hf]
  rfl

end

/-! ### Software reset (R151) -/

/-- The block while a software reset is under way: interrupts off, the reset in the tag. -/
def State.inReset (s : State) : State := (s.setIntEnabled false).setTag .softReset

@[simp] theorem State.inReset_nextByte (s : State) (k : Nat) : s.inReset.nextByte k = s.nextByte k := rfl

@[simp] theorem State.inReset_altRead (s : State) (k : Nat) : s.inReset.altRead k = s.altRead k := rfl

@[simp] theorem State.inReset_attempts (s : State) (k n : Nat) : s.inReset.attempts k n = s.attempts k n := rfl

/-- A reset that fails leaves the block without a command and with interrupts off. -/
theorem State.endCommand_inReset (s : State) (a : Nat) (e : List Event) :
    (s.inReset.ranIo a e).endCommand = ((s.ranIo a e).setIntEnabled false).endCommand := rfl

/-- A reset that succeeds restores the interrupt mode, so that only the drive and the command have changed. -/
theorem State.restore_inReset (s : State) (v : Byte) (a : Nat) (e : List Event) :
    ((portWrite8 .devCtl v ((s.inReset.ranIo a e).setIntEnabled s.intEnabled)).setSelectedDrive 0#1).endCommand =
      ((s.ranIo a (e ++ [.portWrite8 (portAddr s.cfg .devCtl) v])).setSelectedDrive 0#1).endCommand := by
  rw [← portWrite8_ranIo]
  rfl

section

variable {s : State} {k p : Nat} {e : List Event}

/-- After its precondition a reset holds and releases SRST, waits 400 ns, and polls. -/
theorem resetSequence_ranIo (s : State) (k : Nat) (e : List Event) :
    resetSequence (s.ranIo (k + 1) (e ++ [s.altRead k])) =
      pollBusy s.cfg.resetPollBudget (s.inReset.ranIo (k + s.cfg.wait400Reads + 1) (e ++ s.resetHead k)) := by
  have hhead : wait400 (portWrite8 .devCtl (devCtlMode false) (ioDelays s.cfg.resetHoldDelays
      (portWrite8 .devCtl devCtlReset (s.inReset.ranIo (k + 1) (e ++ [s.altRead k]))))) =
      s.inReset.ranIo (k + s.cfg.wait400Reads + 1) (e ++ s.resetHead k) := by
    rw [portWrite8_ranIo, ioDelays_ranIo, portWrite8_ranIo, wait400_ranIo, State.resetHead, Nat.add_right_comm]
    simp only [List.append_assoc, List.cons_append, List.nil_append]
    rfl
  exact congrArg (fun t => pollBusy t.cfg.resetPollBudget t) hhead

theorem reset_ranIo_of_busy (hb : statusBsy (s.nextByte k) = true) :
    reset (s.ranIo k e) = (.protocolViolation, s.ranIo (k + 1) (e ++ [s.altRead k])) := by
  simp only [reset, altStatusRead_ranIo, hb, if_true]

/-- A reset whose poll runs out. -/
theorem reset_ranIo_of_waitMisses (hb : statusBsy (s.nextByte k) = false)
    (hp : s.waitMisses 7 false (k + s.cfg.wait400Reads + 1) s.cfg.resetPollBudget) :
    reset (s.ranIo k e) =
      (.timeout, ((s.ranIo (k + s.cfg.wait400Reads + 1 + s.cfg.resetPollBudget)
        (e ++ (s.resetHead k ++ s.attempts (k + s.cfg.wait400Reads + 1) s.cfg.resetPollBudget))).setIntEnabled
          false).endCommand) := by
  have hpoll := pollBusy_ranIo_of_waitMisses (s := s.inReset) (e := e ++ s.resetHead k) hp
  simp only [reset, altStatusRead_ranIo, hb, resetSequence_ranIo, hpoll, State.endCommand_inReset,
    State.inReset_attempts, Bool.false_eq_true, if_false, List.append_assoc]

/-- A reset whose poll ends at the attempt `p`: the last status decides. -/
theorem reset_ranIo_of_waitMeets (hb : statusBsy (s.nextByte k) = false) (hp : p < s.cfg.resetPollBudget)
    (hm : s.waitMeets 7 false (k + s.cfg.wait400Reads + 1) p) :
    reset (s.ranIo k e) =
      if statusFailed (s.nextByte (k + s.cfg.wait400Reads + p + 2)) then
        (.deviceError, ((s.ranIo (k + s.cfg.wait400Reads + p + 3) (e ++ s.resetEvents k p)).setIntEnabled
          false).endCommand)
      else
        (.ok, ((s.ranIo (k + s.cfg.wait400Reads + p + 3) (e ++ (s.resetEvents k p ++
          [.portWrite8 (portAddr s.cfg .devCtl) (devCtlMode s.intEnabled)]))).setSelectedDrive 0#1).endCommand) := by
  have hpoll := pollBusy_ranIo_of_waitMeets (s := s.inReset) (e := e ++ s.resetHead k) hp hm
  have hcount : k + s.cfg.wait400Reads + 1 + p + 1 = k + s.cfg.wait400Reads + p + 2 := by omega
  simp only [reset, altStatusRead_ranIo, hb, resetSequence_ranIo, hpoll, hcount, State.ranIo_intEnabled,
    State.endCommand_inReset, State.restore_inReset, State.inReset_nextByte, State.inReset_attempts,
    State.inReset_altRead, State.resetEvents, Bool.false_eq_true, if_false, List.append_assoc]

/-- A reset that succeeds. -/
theorem reset_ranIo_of_resetMeets (h : s.resetMeets k p) :
    reset (s.ranIo k e) =
      (.ok, ((s.ranIo (k + s.cfg.wait400Reads + p + 3) (e ++ (s.resetEvents k p ++
        [.portWrite8 (portAddr s.cfg .devCtl) (devCtlMode s.intEnabled)]))).setSelectedDrive 0#1).endCommand) := by
  obtain ⟨hb, hp, hm, hf⟩ := h
  rw [reset_ranIo_of_waitMeets hb hp hm, hf]
  rfl

end

/-! ### The statements -/

/-- Settles O19: three of the operations are `statusTest`, with the bits of R12; the fourth is one read of Error. -/
theorem singleShotReads : Obligations.SingleShotReads := by
  intro s
  refine ⟨statusTest_eq statusBsy s, statusTest_eq statusDrq s, statusTest_eq statusFailed s, ?_⟩
  show finishValue (.byte (portRead8 .error s).1) (portRead8 .error s).2 = _
  rw [portRead8_eq]
  rfl

/-- Settles O20: `altStatusReads_eq` at `WAIT400_READS`. -/
theorem wait400MakesExactReads : Obligations.Wait400MakesExactReads := fun s =>
  finish_eq_next (congrArg (Prod.mk ResultCode.ok) (altStatusReads_eq s.cfg.wait400Reads s))

/-- Settles O21: both halves by induction on the budget. -/
theorem waitBitBudgetExact : Obligations.WaitBitBudgetExact := fun _ _ _ _ =>
  ⟨fun _ hk h => waitBit_of_waitMeets hk h, waitBit_of_waitMisses⟩

/-- Settles O22: each operation is the bounded wait for its bit with the budget `WAIT_BUDGET`. -/
theorem namedWaits : Obligations.NamedWaits := by
  intro target s i bit hmem
  have hexec : exec i s = finish (waitBit bit target s.cfg.waitBudget s) := by
    simp only [List.mem_cons, Prod.mk.injEq, List.not_mem_nil, or_false] at hmem
    obtain ⟨rfl, rfl⟩ | ⟨rfl, rfl⟩ | ⟨rfl, rfl⟩ := hmem <;> rfl
  rw [hexec]
  exact ⟨fun _ hk h => finish_eq_next (waitBit_of_waitMeets hk h), fun h => finish_eq_next (waitBit_of_waitMisses h)⟩

/-- Settles O23: the exits of `driveSelect` one by one, from the first port read on. -/
theorem selectDriveOutcomes : Obligations.SelectDriveOutcomes := by
  intro dev1 s w
  have hrefused := driveSelect_ranIo_of_not_idle (dev1 := dev1) (s := s) (k := 0) (e := [])
  have hmisses := driveSelect_ranIo_of_waitMisses (dev1 := dev1) (s := s) (k := 0) (e := [])
  have hmeets := fun p => driveSelect_ranIo_of_waitMeets (dev1 := dev1) (s := s) (k := 0) (p := p) (e := [])
  have hselect := fun p => driveSelect_ranIo_of_selectMeets (dev1 := dev1) (s := s) (k := 0) (p := p) (e := [])
  simp only [State.ranIo_zero, List.nil_append, Nat.zero_add] at hrefused hmisses hmeets hselect
  refine ⟨fun ht => finish_eq_next (driveSelect_of_active ht), fun ht => ⟨fun hi => ?_, fun hi hm => ?_,
    fun p hi hp hm hf => ?_, fun p h => ?_⟩⟩
  · exact finish_eq_next (hrefused ht hi)
  · exact finish_eq_next (hmisses ht hi hm)
  · exact finish_eq_next ((hmeets p ht hi hp hm).trans (if_pos hf))
  · exact finish_eq_next (hselect p ht h)

/-- Settles O24: the exits of `reset` one by one, from the first port read on. -/
theorem softwareResetOutcomes : Obligations.SoftwareResetOutcomes := by
  intro s w
  have hrefused := reset_ranIo_of_busy (s := s) (k := 0) (e := [])
  have hmisses := reset_ranIo_of_waitMisses (s := s) (k := 0) (e := [])
  have hmeets := fun p => reset_ranIo_of_waitMeets (s := s) (k := 0) (p := p) (e := [])
  have hreset := fun p => reset_ranIo_of_resetMeets (s := s) (k := 0) (p := p) (e := [])
  simp only [State.ranIo_zero, List.nil_append, Nat.zero_add] at hrefused hmisses hmeets hreset
  refine ⟨fun hb => ?_, fun hb hm => ?_, fun p hb hp hm hf => ?_, fun p h => ?_⟩
  · exact finish_eq_next (hrefused hb)
  · exact finish_eq_next (hmisses hb hm)
  · exact finish_eq_next ((hmeets p hb hp hm).trans (if_pos hf))
  · exact finish_eq_next (hreset p h)

end Sys2Proof.Machine

/-! Proofs about device identification (spec/41_identify.md). The fields of a parsed answer, the scan for a highest set
bit, and the data phase as a run `State.ranIo` from any place of the device's answers. -/

namespace Sys2Proof.Machine

/-! ### Words of the answer -/

/-- The three mandatory checks (R184). -/
theorem parseIdentify_eq_none_iff (w : IdentBuf) :
    parseIdentify w = none ↔ w[(0 : Fin 256)].getLsbD 15 = true ∨ w[(49 : Fin 256)].getLsbD 9 = false ∨
      w[(83 : Fin 256)].getLsbD 13 = false := by
  have hnone : parseIdentify w = none ↔ identMandatory w = false := by simp [parseIdentify]
  rw [hnone]
  simp only [identMandatory, identBit, Bool.and_eq_false_iff, Bool.not_eq_false', or_assoc]

theorem eq_identFields_of_parseIdentify {w : IdentBuf} {f : Descriptor} (h : parseIdentify w = some f) :
    f = identFields w :=
  (Option.ite_some_none_eq_some.1 h).2.symm

/-- The lower-numbered word is the low one (R188). -/
theorem identPair_toNat (w : IdentBuf) (lo hi : Fin 256) :
    (identPair w lo hi).toNat = w[lo].toNat + 65536 * w[hi].toNat := by
  have hlo := w[lo].isLt
  rw [identPair, BitVec.toNat_append, ← Nat.shiftLeft_add_eq_or_of_lt hlo, Nat.shiftLeft_eq]
  omega

theorem identLow_toNat (w : IdentBuf) (n : Fin 256) : (identLow w n).toNat = w[n].toNat % 256 := by
  simp [identLow]

theorem identPair_eq_zero_iff (w : IdentBuf) (lo hi : Fin 256) :
    identPair w lo hi = 0#32 ↔ w[lo].toNat + 65536 * w[hi].toNat = 0 := by
  rw [← identPair_toNat, ← BitVec.toNat_inj]
  rfl

theorem parseSectorSize_of_trusted {w : IdentBuf} {version : Byte} (hv : 8 ≤ version.toNat)
    (hw : w[(117 : Fin 256)].toNat + 65536 * w[(118 : Fin 256)].toNat ≠ 0) :
    parseSectorSize w version = identPair w 117 118 :=
  if_pos ⟨hv, (identPair_eq_zero_iff w 117 118).not.2 hw⟩

theorem parseSectorSize_of_not_trusted {w : IdentBuf} {version : Byte}
    (h : version.toNat < 8 ∨ w[(117 : Fin 256)].toNat + 65536 * w[(118 : Fin 256)].toNat = 0) :
    parseSectorSize w version = 256#32 :=
  if_neg fun ⟨hv, hw⟩ => h.elim hv.not_gt fun h0 => hw ((identPair_eq_zero_iff w 117 118).2 h0)

/-! ### The scan for the highest set bit (R190, R191) -/

/-- The scan stops at the first set bit from above. -/
theorem scanDown_eq_some_iff {v : Word} {base top i : Nat} :
    scanDown v base top = some i ↔
      i ≤ top ∧ v.getLsbD (base + i) = true ∧ ∀ j, i < j → j ≤ top → v.getLsbD (base + j) = false := by
  induction top with
  | zero =>
    by_cases hb : v.getLsbD base = true
    · rw [scanDown, if_pos hb]
      grind
    · rw [scanDown, if_neg hb]
      grind
  | succ n ih =>
    by_cases hb : v.getLsbD (base + (n + 1)) = true
    · rw [scanDown, if_pos hb, Option.some_inj]
      constructor
      · rintro rfl
        exact ⟨le_rfl, hb, fun j hj hj' => absurd hj hj'.not_gt⟩
      · rintro ⟨hi, _, habove⟩
        exact le_antisymm (not_lt.1 fun hlt => Bool.false_ne_true ((habove (n + 1) hlt le_rfl).symm.trans hb)) hi
    · rw [scanDown, if_neg hb, ih]
      grind

theorem scanDown_eq_none_iff {v : Word} {base top : Nat} :
    scanDown v base top = none ↔ ∀ i, i ≤ top → v.getLsbD (base + i) = false := by
  induction top with
  | zero => simp [scanDown]
  | succ n ih =>
    by_cases hb : v.getLsbD (base + (n + 1)) = true
    · rw [scanDown, if_pos hb]
      exact iff_of_false nofun fun hclear => Bool.false_ne_true ((hclear (n + 1) le_rfl).symm.trans hb)
    · rw [scanDown, if_neg hb, ih]
      grind

theorem highestBit_parseUdma (v : Word) (base top : Nat) : highestBit v base top (parseUdma v base top) := by
  unfold parseUdma
  cases h : scanDown v base top with
  | none => exact .inr ⟨scanDown_eq_none_iff.1 h, rfl⟩
  | some i =>
    obtain ⟨hi, hbit, habove⟩ := scanDown_eq_some_iff.1 h
    exact .inl ⟨i, hi, hbit, habove, rfl⟩

theorem parseAtaVersion_of_unreported {v : Word} (hv : v = 0x0000#16 ∨ v = 0xFFFF#16) : parseAtaVersion v = 0#8 :=
  if_pos hv

section

variable {v : Word} (h0 : v ≠ 0x0000#16) (h1 : v ≠ 0xFFFF#16)

include h0 h1

theorem parseAtaVersion_of_scanDown_some {i : Nat} (h : scanDown v 2 6 = some i) :
    parseAtaVersion v = BitVec.ofNat 8 (i + 2) := by
  rw [parseAtaVersion, if_neg (not_or.2 ⟨h0, h1⟩), h]

theorem parseAtaVersion_of_scanDown_none (h : scanDown v 2 6 = none) : parseAtaVersion v = 0#8 := by
  rw [parseAtaVersion, if_neg (not_or.2 ⟨h0, h1⟩), h]

/-- A reported version (R190) is the highest set bit among 8 to 2. -/
theorem parseAtaVersion_toNat_of_highest {i : Nat} (h2 : 2 ≤ i) (h8 : i ≤ 8) (hbit : v.getLsbD i = true)
    (habove : ∀ j, i < j → j ≤ 8 → v.getLsbD j = false) : (parseAtaVersion v).toNat = i := by
  obtain ⟨d, rfl⟩ := Nat.exists_eq_add_of_le h2
  have hscan : scanDown v 2 6 = some d :=
    scanDown_eq_some_iff.2 ⟨by omega, hbit, fun j hj hj6 => habove (2 + j) (by omega) (by omega)⟩
  rw [parseAtaVersion_of_scanDown_some h0 h1 hscan, BitVec.toNat_ofNat]
  omega

theorem parseAtaVersion_of_clear (hclear : ∀ i, 2 ≤ i → i ≤ 8 → v.getLsbD i = false) : parseAtaVersion v = 0#8 :=
  parseAtaVersion_of_scanDown_none h0 h1
    (scanDown_eq_none_iff.2 fun i hi => hclear (2 + i) (by omega) (by omega))

end

/-! ### The data phase (R182) -/

/-- The buffer that the burst fills, word by word. -/
theorem identBufOf_nextWords_eq {s : State} {k : Nat} {w : IdentBuf} (hw : ∀ i : Fin 256, w[i] = s.nth (k + i.val)) :
    identBufOf (s.nextWords k 256) = w := by
  refine Vector.ext fun i hi => Eq.trans ?_ (hw ⟨i, hi⟩).symm
  simp [identBufOf, State.nextWords]

theorem State.parsedInto_of_none {w : IdentBuf} (h : parseIdentify w = none) (s : State) :
    s.parsedInto w = (s.setIdentBuf w).setIdentified false := by
  rw [State.parsedInto, h]

theorem State.parsedInto_of_some {w : IdentBuf} {f : Descriptor} (h : parseIdentify w = some f) (s : State) :
    s.parsedInto w = (s.setIdentBuf w).commit f := by
  rw [State.parsedInto, h]

/-- The burst reads exactly 256 words, whatever they are, and their parse decides. -/
theorem identBurst_ranIo (s : State) (k : Nat) (e : List Event) :
    identBurst (s.ranIo k e) =
      (if parseIdentify (identBufOf (s.nextWords k 256)) = none then .capabilityAbsent else .ok,
        (s.ranIo (k + 256) (e ++ s.dataReads k 256)).parsedInto (identBufOf (s.nextWords k 256))) := by
  have hreads : dataReads (s.ranIo k e).cfg.identWords.count (s.ranIo k e) =
      (s.nextWords k 256, s.ranIo (k + 256) (e ++ s.dataReads k 256)) := by
    rw [IdentWords.count_eq, dataReads_eq, State.nextWords_ranIo, State.dataReads_ranIo, State.ranIo_ranIo]
    rfl
  simp only [identBurst, hreads, State.setIdentBuf_identBuf]
  cases hparse : parseIdentify (identBufOf (s.nextWords k 256)) with
  | none => rw [State.parsedInto_of_none hparse, if_pos rfl]
  | some f => rw [State.parsedInto_of_some hparse, if_neg nofun]

section

variable {s : State} {k : Nat} {e : List Event}

theorem identifyData_ranIo_of_busy (hb : statusBsy (s.nextByte k) = true) :
    identifyData (s.ranIo k e) = (.busyRetry, s.ranIo (k + 1) (e ++ [s.altRead k])) := by
  simp only [identifyData, altStatusRead_ranIo, hb, if_true]

/-- Without data to read, the data phase ends the command. -/
theorem identifyData_ranIo_of_no_drq (hb : statusBsy (s.nextByte k) = false) (hd : statusDrq (s.nextByte k) = false) :
    identifyData (s.ranIo k e) =
      (failedOr (s.nextByte k) .protocolViolation, (s.ranIo (k + 1) (e ++ [s.altRead k])).endCommand) := by
  simp only [identifyData, altStatusRead_ranIo, hb, hd, Bool.false_eq_true, Bool.not_false, if_true, if_false]

/-- A data phase that moves the words. -/
theorem identifyData_ranIo_of_drq (hb : statusBsy (s.nextByte k) = false) (hd : statusDrq (s.nextByte k) = true) :
    identifyData (s.ranIo k e) =
      (if parseIdentify (identBufOf (s.nextWords (k + 1) 256)) = none then .capabilityAbsent else .ok,
        (s.ranIo (k + 257) (e ++ s.altRead k :: s.dataReads (k + 1) 256)).parsedInto
          (identBufOf (s.nextWords (k + 1) 256))) := by
  simp only [identifyData, altStatusRead_ranIo, hb, hd, identBurst_ranIo, Bool.false_eq_true, Bool.not_true, if_false,
    List.append_assoc, List.singleton_append]

end

/-- The data phase from the next answer on, over the words `w` that it reads. -/
theorem identifyData_of_drq {s : State} {w : IdentBuf} (hb : statusBsy (s.nextByte 0) = false)
    (hd : statusDrq (s.nextByte 0) = true) (hw : ∀ i : Fin 256, w[i] = s.nth (i.val + 1)) :
    identifyData s = (if parseIdentify w = none then .capabilityAbsent else .ok,
      (s.ranIo 257 (s.altRead 0 :: s.dataReads 1 256)).parsedInto w) := by
  have hwords : identBufOf (s.nextWords 1 256) = w :=
    identBufOf_nextWords_eq fun i => (hw i).trans (congrArg s.nth (Nat.add_comm ..))
  simpa [State.ranIo_zero, hwords] using identifyData_ranIo_of_drq (e := []) hb hd

/-! ### The statements -/

/-- Settles O25: the parse by its one test, the data phase by `identifyData_of_drq`. -/
theorem parseMandatoryChecks : Obligations.ParseMandatoryChecks := fun w =>
  ⟨parseIdentify_eq_none_iff w, fun _ hw hb hd hnone => by rw [identifyData_of_drq hb hd hw, if_pos hnone]⟩

/-- Settles O26: each field of `identFields` on the bits of its word. -/
theorem parseCapabilityFields : Obligations.ParseCapabilityFields := by
  intro w f h
  obtain rfl := eq_identFields_of_parseIdentify h
  refine ⟨identLow_toNat w 47, ?_, rfl, rfl, rfl, ?_⟩
  · rw [← identLow_toNat]
    simp [identFields, ← BitVec.toNat_inj]
  · rw [← identLow_toNat]
    exact apply_ite BitVec.toNat _ _ _

/-- Settles O27: the test on word 61 picks the words, and `identPair_toNat` puts the lower-numbered one low. -/
theorem parseSectorCountsAndSize : Obligations.ParseSectorCountsAndSize := by
  intro w f h pair
  obtain rfl := eq_identFields_of_parseIdentify h
  refine ⟨fun hext => ?_, fun hshort => ?_, fun hversion hsize => ?_, fun hdefault => ?_⟩
  · simp only [identFields, identExtended, hext, decide_true, if_true]
    exact ⟨identPair_toNat w 100 101, identPair_toNat w 102 103⟩
  · simp only [identFields, identExtended, hshort.not_gt, decide_false, Bool.false_eq_true, if_false]
    exact ⟨identPair_toNat w 60 61, trivial⟩
  · have hs := parseSectorSize_of_trusted hversion hsize
    exact (congrArg BitVec.toNat hs).trans (identPair_toNat w 117 118)
  · exact parseSectorSize_of_not_trusted hdefault

/-- Settles O28: both scans by `scanDown_eq_some_iff` and `scanDown_eq_none_iff`. -/
theorem parseVersionAndUdma : Obligations.ParseVersionAndUdma := by
  intro w f h v
  obtain rfl := eq_identFields_of_parseIdentify h
  exact ⟨parseAtaVersion_of_unreported,
    fun h0 h1 => ⟨fun _ => parseAtaVersion_toNat_of_highest h0 h1, parseAtaVersion_of_clear h0 h1⟩,
    highestBit_parseUdma (udmaWord w) 0 _, highestBit_parseUdma (udmaWord w) 8 _⟩

/-- Settles O29: the three exits of `identifyData`, the last split by the parse. -/
theorem identifyDataOutcomes : Obligations.IdentifyDataOutcomes := by
  intro s
  have hbusy := identifyData_ranIo_of_busy (s := s) (k := 0) (e := [])
  have hnoDrq := identifyData_ranIo_of_no_drq (s := s) (k := 0) (e := [])
  simp only [State.ranIo_zero, List.nil_append, Nat.zero_add] at hbusy hnoDrq
  refine ⟨hbusy, hnoDrq, fun hb hd w hw => ⟨fun hnone => ?_, fun f hsome => ?_⟩⟩
  · rw [identifyData_of_drq hb hd hw, State.parsedInto_of_none hnone, if_pos hnone]
    rfl
  · rw [identifyData_of_drq hb hd hw, State.parsedInto_of_some hsome, hsome, if_neg nofun]
    rfl

end Sys2Proof.Machine

/-! Proofs about the commands that move caller data (spec/42_command_transfer.md). What an operation answers where the
command guard or an argument check refuses it, what its arguments must be, and the ready check as a run `State.ranIo`. -/

namespace Sys2Proof.Machine

/-! ### The command guard (R220) -/

@[simp] theorem andThen_protocolViolation (s : State) (k : State → OpOut) :
    OpOut.andThen (.protocolViolation, s) k = (.protocolViolation, s) := rfl

@[simp] theorem andThenMem_protocolViolation (s : State) (k : State → MemOut) :
    OpOut.andThenMem (.protocolViolation, s) k = .ok (.protocolViolation, s) := rfl

@[simp] theorem andThenMem_ok (s : State) (k : State → MemOut) : OpOut.andThenMem (.ok, s) k = k s := rfl

theorem commandGuard_of_admitted {s : State} (hi : s.identified = true) (ht : s.tag = .none) :
    commandGuard s = (.ok, s) := by
  rw [commandGuard_eq, if_pos ⟨hi, ht⟩]

theorem finishMem_eq_next {r : MemOut} {c : ResultCode} {t : State} (h : r = .ok (c, t)) :
    finishMem r = .next (t.setResult c .none) := by
  rw [h]
  rfl

section

variable {s : State} (h : s.identified = false ∨ s.tag ≠ .none)

include h

theorem commandGuard_of_refused : commandGuard s = (.protocolViolation, s) := by
  rcases h with hi | ht
  · simp [commandGuard_eq, hi]
  · simp [commandGuard_eq, ht]

theorem flushCommand_of_refused : flushCommand s = (.protocolViolation, s) := by
  rw [flushCommand, commandGuard_of_refused h, andThen_protocolViolation]

theorem setMultipleCommand_of_refused (m : Byte) : setMultipleCommand m s = (.protocolViolation, s) := by
  rw [setMultipleCommand, commandGuard_of_refused h, andThen_protocolViolation]

theorem issueRW_of_refused (dir : Dir) (buf : Addr) (start count : DWord) :
    issueRW dir buf start count s = .ok (.protocolViolation, s) := by
  rw [issueRW, commandGuard_of_refused h, andThenMem_protocolViolation]

/-- Whatever the block selects: a named command that is not selected has the same answer (log 4). -/
theorem issueNamed_of_refused (op : AtaOpcode) (dir : Dir) (buf : Addr) (start count : DWord) :
    issueNamed op dir buf start count s = .ok (.protocolViolation, s) := by
  rw [issueNamed, issueRW_of_refused h, ite_self]

/-- Every guarded operation is one of the four that begin with the guard. -/
theorem exec_guardedCommand_of_refused {i : Instr} (hg : guardedCommand i = true) :
    exec i s = .next (s.setResult .protocolViolation .none) := by
  cases i with
  | flush | flushCache => exact finish_eq_next (flushCommand_of_refused h)
  | setMultipleMode m | setMultipleModeCommand m => exact finish_eq_next (setMultipleCommand_of_refused h m)
  | read | write => exact finishMem_eq_next (issueRW_of_refused h ..)
  | readSectors | readSectorsExt | readMultiple | readMultipleExt | writeSectors | writeSectorsExt | writeMultiple
  | writeMultipleExt => exact finishMem_eq_next (issueNamed_of_refused h ..)
  | _ => cases hg

end

/-! ### The argument checks (R238, R239, R242) -/

theorem countOk_eq_false_iff (d : Descriptor) (count : DWord) :
    countOk d count = false ↔ count = 0#32 ∨ (if d.hasLba48 then 65535 else 255) < count.toNat := by
  rw [countOk, Bool.and_eq_false_iff, decide_eq_false_iff_not, decide_eq_false_iff_not, not_not, Nat.not_le]

theorem boundsOk_eq_false_iff (d : Descriptor) (start count : DWord) :
    boundsOk d start count = false ↔ sectorLimit d < start.toNat + count.toNat := by
  rw [boundsOk, decide_eq_false_iff_not, Nat.not_le]

theorem bufferOk_eq_false_iff (c : Config) (d : Descriptor) (buf : Addr) (count : DWord) :
    bufferOk c d buf count = false ↔
      buf = 0#64 ∨ 2 ^ c.ptrWidth.bits ≤ buf.toNat + 2 * count.toNat * d.sectorSize.toNat := by
  rw [bufferOk, Bool.and_eq_false_iff, decide_eq_false_iff_not, decide_eq_false_iff_not, not_not, Nat.not_lt]

/-- One of the three checks fails. -/
theorem argsOk_eq_false_iff (c : Config) (d : Descriptor) (buf : Addr) (start count : DWord) :
    argsOk c d buf start count = false ↔
      countOk d count = false ∨ boundsOk d start count = false ∨ bufferOk c d buf count = false := by
  rw [argsOk, Bool.and_eq_false_iff, Bool.and_eq_false_iff, or_assoc]

theorem issueNamed_of_selected {op : AtaOpcode} {dir : Dir} {buf : Addr} {start count : DWord} {s : State}
    (h : selectOpcode s.desc dir = op) : issueNamed op dir buf start count s = issueRW dir buf start count s :=
  if_pos h

/-- A transfer that the block issues is `issueRW`, whether by `read`, by `write` or by the selected command's name. -/
theorem exec_of_transferRequest {i : Instr} {s : State} {dir : Dir} {buf : Addr} {start count : DWord}
    (h : transferRequest s.desc i = some (dir, buf, start, count)) :
    exec i s = finishMem (issueRW dir buf start count s) := by
  cases i with
  | read | write => cases h; rfl
  | readSectors | readSectorsExt | readMultiple | readMultipleExt | writeSectors | writeSectorsExt | writeMultiple
  | writeMultipleExt =>
    obtain ⟨hsel, hargs⟩ := Option.ite_none_right_eq_some.1 h
    cases hargs
    exact congrArg finishMem (issueNamed_of_selected hsel)
  | _ => cases h

theorem issueRW_of_bad_args {dir : Dir} {buf : Addr} {start count : DWord} {s : State} (hi : s.identified = true)
    (ht : s.tag = .none) (ha : argsOk s.cfg s.desc buf start count = false) :
    issueRW dir buf start count s = .ok (.invalidArgument, s) := by
  rw [issueRW, commandGuard_of_admitted hi ht, andThenMem_ok, ha]
  rfl

/-! ### The ready check (R221) -/

section

variable {s : State} {a b c : Nat}

theorem checkReady_of_busy (h : s.waitMisses 7 false 0 s.cfg.waitBudget) :
    checkReady s = (.timeout, s.ranIo s.cfg.waitBudget (s.attempts 0 s.cfg.waitBudget)) := by
  rw [checkReady, waitBit_of_waitMisses h, andThen_timeout]

/-- Past the wait for BSY the check is the other two waits. -/
theorem checkReady_of_not_busy (ha : a < s.cfg.waitBudget) (hbsy : s.waitMeets 7 false 0 a) :
    checkReady s =
      OpOut.andThen (waitBit 3 false s.cfg.waitBudget (s.ranIo (a + 1) (s.attempts 0 (a + 1)))) fun u =>
        waitBit 6 true u.cfg.waitBudget u := by
  rw [checkReady, waitBit_of_waitMeets ha hbsy, andThen_ok, State.ranIo_cfg]

theorem checkReady_of_dataRequest (ha : a < s.cfg.waitBudget) (hbsy : s.waitMeets 7 false 0 a)
    (h : s.waitMisses 3 false (a + 1) s.cfg.waitBudget) :
    checkReady s = (.timeout, s.ranIo (a + 1 + s.cfg.waitBudget)
      (s.attempts 0 (a + 1) ++ s.attempts (a + 1) s.cfg.waitBudget)) := by
  rw [checkReady_of_not_busy ha hbsy, waitBit_ranIo_of_waitMisses h, andThen_timeout]

/-- Past the waits for BSY and DRQ the check is the wait for DRDY. -/
theorem checkReady_of_no_dataRequest (ha : a < s.cfg.waitBudget) (hb : b < s.cfg.waitBudget)
    (hbsy : s.waitMeets 7 false 0 a) (hdrq : s.waitMeets 3 false (a + 1) b) :
    checkReady s = waitBit 6 true s.cfg.waitBudget
      (s.ranIo (a + b + 2) (s.attempts 0 (a + 1) ++ s.attempts (a + 1) (b + 1))) := by
  have hcount : a + 1 + b + 1 = a + b + 2 := by omega
  rw [checkReady_of_not_busy ha hbsy, waitBit_ranIo_of_waitMeets hb hdrq, andThen_ok, State.ranIo_cfg, hcount]

theorem checkReady_of_not_deviceReady (ha : a < s.cfg.waitBudget) (hb : b < s.cfg.waitBudget)
    (hbsy : s.waitMeets 7 false 0 a) (hdrq : s.waitMeets 3 false (a + 1) b)
    (h : s.waitMisses 6 true (a + b + 2) s.cfg.waitBudget) :
    checkReady s = (.timeout, s.ranIo (a + b + 2 + s.cfg.waitBudget)
      (s.attempts 0 (a + 1) ++ s.attempts (a + 1) (b + 1) ++ s.attempts (a + b + 2) s.cfg.waitBudget)) := by
  rw [checkReady_of_no_dataRequest ha hb hbsy hdrq, waitBit_ranIo_of_waitMisses h]

/-- A ready check that succeeds. -/
theorem checkReady_of_readyMeets (h : s.readyMeets a b c) :
    checkReady s = (.ok, s.ranIo (a + b + c + 3) (s.readyEvents a b c)) := by
  obtain ⟨⟨ha, hb, hc⟩, hbsy, hdrq, hdrdy⟩ := h
  have hcount : a + b + 2 + c + 1 = a + b + c + 3 := by omega
  rw [checkReady_of_no_dataRequest ha hb hbsy hdrq, waitBit_ranIo_of_waitMeets hc hdrdy, hcount, State.readyEvents]

end

/-! ### The statements -/

/-- Settles O17: the guard by `commandGuard_eq`, then each guarded operation stops at it. -/
theorem commandGuardRule : Obligations.CommandGuardRule :=
  ⟨fun _ => ⟨fun hi => commandGuard_of_refused (.inl hi), fun ht => commandGuard_of_refused (.inr ht),
    commandGuard_of_admitted⟩, fun _ _ hg h => exec_guardedCommand_of_refused h hg⟩

/-- Settles O37: the three checks one by one, and the exit of `issueRW` where one fails. -/
theorem argumentChecks : Obligations.ArgumentChecks := by
  intro i s dir buf start count maxCount limit limit'
  refine ⟨?_, fun hreq hi ht hargs => ?_⟩
  · rw [argsOk_eq_false_iff, countOk_eq_false_iff, boundsOk_eq_false_iff, bufferOk_eq_false_iff]
    rfl
  · rw [exec_of_transferRequest hreq]
    exact finishMem_eq_next (issueRW_of_bad_args hi ht hargs)

/-- Settles O47: the four exits of `checkReady` one by one. -/
theorem checkReadyRule : Obligations.CheckReadyRule := fun _ =>
  ⟨fun _ _ _ => checkReady_of_readyMeets, checkReady_of_busy, fun _ => checkReady_of_dataRequest,
    fun _ _ => checkReady_of_not_deviceReady⟩

end Sys2Proof.Machine

/-! Proofs about the interrupt dispatcher (spec/43_interrupt_dispatcher.md). How the added events of consecutive runs
compose, what the dispatcher adds between its first and its last event, and the frame of `onInterrupt` around it. -/

namespace Sys2Proof.Machine

/-! ### The added events of consecutive runs -/

theorem AddsEvents.trans {s t u : State} {a b : List Event} (hst : AddsEvents s t a) (htu : AddsEvents t u b) :
    AddsEvents s u (a ++ b) := by
  rw [AddsEvents, htu, hst, List.reverse_append, List.append_assoc]

theorem addsEvents_ranIo (s : State) (n : Nat) (evs : List Event) : AddsEvents s (s.ranIo n evs) evs := rfl

theorem addsEvents_emit (s : State) (e : Event) : AddsEvents s (s.emit e) [e] := rfl

/-- Recording a result is no event. -/
theorem addsEvents_setResult_iff {s t : State} {c : ResultCode} {v : ResultValue} {evs : List Event} :
    AddsEvents s (t.setResult c v) evs ↔ AddsEvents s t evs := Iff.rfl

/-! ### The dispatcher between its first and its last event (R280) -/

/-- The rarer events the dispatcher may make: accesses of caller memory, for a unit. -/
def dispatchGrants : Grants where
  status := False
  mask := False
  eoi := False
  memory := True

theorem BlockEvent.ne_sendEOI {c : Config} {g : Grants} (hg : ¬ g.eoi) {e : Event} (h : BlockEvent c g e) (l : Nat) :
    e ≠ .sendEOI l := by
  rintro rfl
  cases h with
  | sendEOI he => exact hg he

/-- Whatever the dispatcher does where it is not stuck, it keeps the parameters and adds only events granted to it. -/
theorem dispatch_adds_blockEvents {status : Byte} {s : State} {r : OpOut} (h : dispatch status s = .ok r) :
    r.2.cfg = s.cfg ∧ ∃ evs, AddsEvents s r.2 evs ∧ BlockEvents s.cfg dispatchGrants evs := by
  obtain ⟨hcfg, evs, hevs, htrace⟩ :=
    dispatch_traces (blockEvents_traceRule s.cfg dispatchGrants) trivial status s r h rfl
  exact ⟨hcfg, evs.reverse, by simpa [AddsEvents] using htrace, fun e he => hevs e (List.mem_reverse.1 he)⟩

/-! ### The operation around the dispatcher (R280, R282) -/

/-- The Status read of the interrupt's entry (R280). -/
def State.statusRead (s : State) : Event := .portRead8 (portAddr s.cfg .status) (s.nextByte 0)

/-- An interrupt that answers ran the dispatcher after the Status read, and then sent EOI. -/
theorem dispatch_of_onInterrupt {s t : State} (h : exec .onInterrupt s = .next t) :
    ∃ r, dispatch (s.nextByte 0) (s.ranIo 1 [s.statusRead]) = .ok r ∧
      t = (r.2.emit (.sendEOI r.2.cfg.irqLine)).setResult r.1 .none := by
  change execOnInterrupt s = .next t at h
  simp only [execOnInterrupt, interruptEntry, portRead8_eq] at h
  split at h
  · cases h
  · next r hr =>
    cases h
    exact ⟨r, hr, rfl⟩

/-! ### The statements -/

/-- Settles O54: the Status read, the dispatcher's events and the EOI follow one another, and the dispatcher is not
granted an EOI. -/
theorem onInterruptEndsWithEoi : Obligations.OnInterruptEndsWithEoi := by
  intro s t h
  obtain ⟨r, hr, rfl⟩ := dispatch_of_onInterrupt h
  obtain ⟨hcfg, evs, hadds, hevs⟩ := dispatch_adds_blockEvents hr
  refine ⟨evs, ?_, fun e he => (hevs e he).ne_sendEOI id⟩
  rw [addsEvents_setResult_iff, hcfg, State.ranIo_cfg]
  exact ((addsEvents_ranIo s 1 [s.statusRead]).trans hadds).trans (addsEvents_emit r.2 _)

end Sys2Proof.Machine

/-! Proofs about the bring-up operations (spec/44_bringup_api.md). What the loop of `drain` does with a stale word, with
none, and at its budget; the drain from any place of the device's answers; and the two exits of `setInterruptMode`. -/

namespace Sys2Proof.Machine

/-! ### Port reads after a run -/

theorem portRead8_ranIo (p : Port) (s : State) (a : Nat) (e : List Event) :
    portRead8 p (s.ranIo a e) =
      (s.nextByte a, s.ranIo (a + 1) (e ++ [.portRead8 (portAddr s.cfg p) (s.nextByte a)])) := by
  rw [portRead8_eq, State.nextByte_ranIo, State.ranIo_ranIo]
  rfl

theorem portRead16_ranIo (p : Port) (s : State) (a : Nat) (e : List Event) :
    portRead16 p (s.ranIo a e) = (s.nth a, s.ranIo (a + 1) (e ++ [.portRead16 (portAddr s.cfg p) (s.nth a)])) := by
  rw [portRead16_eq, State.nth_ranIo, State.ranIo_ranIo]
  rfl

/-! ### The drain (R313) -/

/-- The events that discard `n` stale words from the `k`-th port read on. -/
def State.discards (s : State) (k n : Nat) : List Event :=
  (List.range n).flatMap fun j =>
    [s.altRead (k + 2 * j), .portRead16 (portAddr s.cfg .data) (s.nth (k + 1 + 2 * j))]

theorem State.discards_zero (s : State) (k : Nat) : s.discards k 0 = [] := rfl

/-- The last discarded word stands at the end. -/
theorem State.discards_succ (s : State) (k n : Nat) :
    s.discards k (n + 1) = s.discards k n ++
      [s.altRead (k + 2 * n), .portRead16 (portAddr s.cfg .data) (s.nth (k + 2 * n + 1))] := by
  simp [State.discards, List.range_succ, Nat.add_right_comm]

theorem State.drainEvents_eq (s : State) (k n : Nat) :
    s.drainEvents k n = .portRead8 (portAddr s.cfg .status) (s.nextByte k) :: s.discards (k + 1) n ++
      (if n < s.cfg.drainBudget then [s.altRead (k + 1 + 2 * n)] else []) := rfl

section

variable {s : State} {k n : Nat} {e : List Event}

/-- One pass: the status decides whether a word follows it. -/
theorem drainLoop_succ_ranIo (b : Nat) :
    drainLoop (b + 1) (s.ranIo k e) =
      if statusDrq (s.nextByte k) then
        drainLoop b (s.ranIo (k + 2) (e ++ [s.altRead k, .portRead16 (portAddr s.cfg .data) (s.nth (k + 1))]))
      else s.ranIo (k + 1) (e ++ [s.altRead k]) := by
  simp only [drainLoop, altStatusRead_ranIo, portRead16_ranIo, List.append_assoc, List.singleton_append]

/-- Every pass that finds a word spends one of the budget. -/
theorem drainLoop_ranIo_of_drq (b : Nat) (h : ∀ j, j < n → statusDrq (s.nextByte (k + 2 * j)) = true) :
    drainLoop (b + n) (s.ranIo k e) = drainLoop b (s.ranIo (k + 2 * n) (e ++ s.discards k n)) := by
  induction n generalizing b with
  | zero => rw [State.discards_zero, List.append_nil]; rfl
  | succ n ih =>
    have hbudget : b + (n + 1) = b + 1 + n := by omega
    rw [hbudget, ih (b + 1) fun j hj => h j (Nat.lt_succ_of_lt hj), drainLoop_succ_ranIo, if_pos (h n n.lt_succ_self),
      List.append_assoc, State.discards_succ]
    rfl

/-- The drain from the `k`-th answer on: past the stale words the budget is spent, or one more status ends it. -/
theorem drain_ranIo_of_drainMeets (h : s.drainMeets k n) :
    drain (s.ranIo k e) = s.ranIo (k + s.drainCount n) (e ++ s.drainEvents k n) := by
  obtain ⟨hle, hdrq, hend⟩ := h
  obtain ⟨b, hb⟩ := Nat.exists_eq_add_of_le' hle
  have hloop : drain (s.ranIo k e) = drainLoop b (s.ranIo (k + 1 + 2 * n)
      (e ++ [.portRead8 (portAddr s.cfg .status) (s.nextByte k)] ++ s.discards (k + 1) n)) := by
    simp only [drain, portRead8_ranIo, State.ranIo_cfg, hb]
    exact drainLoop_ranIo_of_drq b hdrq
  rw [hloop, State.drainCount, State.drainEvents_eq]
  cases b with
  | zero =>
    have hspent : ¬ n < s.cfg.drainBudget := by omega
    simp [drainLoop, hspent, Nat.add_assoc]
  | succ b =>
    have hleft : n < s.cfg.drainBudget := by omega
    rw [drainLoop_succ_ranIo, hend hleft]
    simp [hleft, Nat.add_assoc]

end

/-! ### The interrupt mode (R314) -/

theorem lineMask_eq (e : Bool) (s : State) :
    lineMask e s = s.ranIo 0 [if e then .unmaskLine s.cfg.irqLine else .maskLine s.cfg.irqLine] := emit_eq _ _

theorem interruptMode_of_active {e : Bool} {s : State} (ht : s.tag ≠ .none) :
    interruptMode e s = (.protocolViolation, s) := if_pos ht

/-- With no command active: the mode's Device Control byte, then the line, whatever the mode was. -/
theorem interruptMode_of_idle {e : Bool} {s : State} (ht : s.tag = .none) :
    interruptMode e s = (.ok, (s.ranIo 0
      [.portWrite8 (portAddr s.cfg .devCtl) (devCtlMode e),
       if e then .unmaskLine s.cfg.irqLine else .maskLine s.cfg.irqLine]).setIntEnabled e) := by
  rw [interruptMode, if_neg (not_not_intro ht), lineMask_eq, portWrite8_eq, State.ranIo_ranIo]
  rfl

/-! ### The statements -/

/-- Settles O58: the drain from the first port read on. -/
theorem drainDiscardsStaleWords : Obligations.DrainDiscardsStaleWords := by
  intro s n h
  simpa [State.ranIo_zero] using drain_ranIo_of_drainMeets (e := []) h

/-- Settles O59: the two exits of `interruptMode`. -/
theorem setInterruptModeRule : Obligations.SetInterruptModeRule := fun _ _ =>
  ⟨fun ht => finish_eq_next (interruptMode_of_active ht), fun ht => finish_eq_next (interruptMode_of_idle ht)⟩

end Sys2Proof.Machine

/-! Proofs about the request words (spec/30_encoding.md R110, R120, R121) and the step that takes them (spec/00_scope.md
R5, R6): what each shape of operands decodes to, and which fields a decoded instruction had. -/

namespace Sys2Proof

/-! ### Encoding, then decoding -/

/-- An operand of at most 64 bits comes back out of the `arg` field. -/
theorem decodeSmall_of_setWidth {n : Nat} {f : RequestFields} (i : BitVec n → Instr) (v : BitVec n) (hn : n ≤ 64)
    (ha : f.arg = v.setWidth 64) (hs : f.start = 0#32) (hc : f.count = 0#32) : decodeSmall n f i = .ok (i v) := by
  have hlt : v.toNat < 2 ^ n := v.isLt
  have hle : 2 ^ n ≤ 2 ^ 64 := Nat.pow_le_pow_right (by omega) hn
  have hval : f.arg.toNat = v.toNat := by
    rw [ha, BitVec.toNat_setWidth, Nat.mod_eq_of_lt (by omega)]
  have hback : f.arg.setWidth n = v := by
    rw [ha, BitVec.setWidth_setWidth_of_le v hn, BitVec.setWidth_eq]
  rw [decodeSmall, if_pos ⟨hval ▸ hlt, hs, hc⟩, hback]

theorem decodeBool_of_ite {f : RequestFields} (i : Bool → Instr) (b : Bool) (ha : f.arg = if b then 1#64 else 0#64)
    (hs : f.start = 0#32) (hc : f.count = 0#32) : decodeBool f i = .ok (i b) := by
  have hbit : f.arg = (BitVec.ofBool b).setWidth 64 := by
    rw [ha]
    cases b <;> rfl
  rw [decodeBool, decodeSmall_of_setWidth _ (BitVec.ofBool b) (by omega) hbit hs hc]
  cases b <;> rfl

/-- Each row decodes by the shape of its operands: one small one, or those that stand in the fields as they are. -/
theorem decode_fields (i : Instr) : i.fields.decode = .ok i := by
  cases i with
  | setMultipleModeCommand m | setMultipleMode m => exact decodeSmall_of_setWidth _ m (by omega) rfl rfl rfl
  | selectDrive d => exact decodeSmall_of_setWidth _ d (by omega) rfl rfl rfl
  | setInterruptMode b | waitBusy b | waitDataRequest b | waitDeviceReady b =>
    exact decodeBool_of_ite _ b rfl rfl rfl
  | _ => rfl

/-! ### Decoding, then encoding -/

/-- The fields of `f` are those of a row: its code and kind, and its operands. -/
structure RequestFields.IsRow (f : RequestFields) (i : Instr) : Prop where
  code : f.code.toNat = i.code.toNat
  kind : f.kind.toNat = i.kind.toNat
  arg : f.arg = i.arg
  start : f.start = i.startCount.1
  count : f.count = i.startCount.2

theorem RequestFields.IsRow.fields_eq {f : RequestFields} {i : Instr} (h : f.IsRow i) : i.fields = f := by
  obtain ⟨hcode, hkind, harg, hstart, hcount⟩ := h
  obtain ⟨code, kind, arg, start, count⟩ := f
  rw [Instr.fields, ← BitVec.eq_of_toNat_eq hcode, ← BitVec.eq_of_toNat_eq hkind, ← harg, ← hstart, ← hcount]

section

variable {f : RequestFields} {i : Instr}

theorem isRow_of_decodePlain {j : Instr} (h : decodePlain f j = .ok i) (hcode : f.code.toNat = j.code.toNat)
    (hkind : f.kind.toNat = j.kind.toNat) (ha : j.arg = 0#64) (hs : j.startCount = (0#32, 0#32)) : f.IsRow i := by
  unfold decodePlain at h
  split at h
  · next hz =>
    obtain ⟨harg, hstart, hcount⟩ := hz
    cases h
    exact ⟨hcode, hkind, harg.trans ha.symm, by rw [hstart, hs], by rw [hcount, hs]⟩
  · cases h

theorem isRow_of_decodeSmall {n : Nat} {j : BitVec n → Instr} (h : decodeSmall n f j = .ok i)
    (hcode : ∀ v, f.code.toNat = (j v).code.toNat) (hkind : ∀ v, f.kind.toNat = (j v).kind.toNat)
    (ha : ∀ v, (j v).arg = v.setWidth 64) (hs : ∀ v, (j v).startCount = (0#32, 0#32)) : f.IsRow i := by
  unfold decodeSmall at h
  split at h
  · next hz =>
    obtain ⟨harg, hstart, hcount⟩ := hz
    cases h
    have hback : f.arg = (f.arg.setWidth n).setWidth 64 := by
      apply BitVec.eq_of_toNat_eq
      rw [BitVec.toNat_setWidth, BitVec.toNat_setWidth, Nat.mod_eq_of_lt harg, Nat.mod_eq_of_lt f.arg.isLt]
    exact ⟨hcode _, hkind _, hback.trans (ha _).symm, by rw [hstart, hs], by rw [hcount, hs]⟩
  · cases h

theorem isRow_of_decodeBool {j : Bool → Instr} (h : decodeBool f j = .ok i)
    (hcode : ∀ b, f.code.toNat = (j b).code.toNat) (hkind : ∀ b, f.kind.toNat = (j b).kind.toNat)
    (ha : ∀ b, (j b).arg = if b then 1#64 else 0#64) (hs : ∀ b, (j b).startCount = (0#32, 0#32)) : f.IsRow i := by
  refine isRow_of_decodeSmall h (fun _ => hcode _) (fun _ => hkind _) (fun v => ?_) (fun _ => hs _)
  rw [ha]
  revert v
  decide

/-- A request by selector that decodes is a row of 30_encoding.md R120. -/
theorem isRow_of_decodeSelector (hk : f.kind.toNat = 0) (h : f.decodeSelector = .ok i) : f.IsRow i := by
  unfold RequestFields.decodeSelector at h
  split at h
  case h_2 hc | h_3 hc => cases h; exact ⟨hc, hk, rfl, rfl, rfl⟩
  case h_5 hc | h_10 hc | h_11 hc | h_12 hc =>
    exact isRow_of_decodeBool h (fun _ => hc) (fun _ => hk) (fun _ => rfl) (fun _ => rfl)
  case h_8 hc | h_18 hc =>
    exact isRow_of_decodeSmall h (fun _ => hc) (fun _ => hk) (fun _ => rfl) (fun _ => rfl)
  case h_20 => cases h
  all_goals exact isRow_of_decodePlain h ‹_› hk rfl rfl

/-- A request for an ATA command that decodes is a row of 30_encoding.md R110. -/
theorem isRow_of_decodeCommand (hk : f.kind.toNat = 1) (h : f.decodeCommand = .ok i) : f.IsRow i := by
  unfold RequestFields.decodeCommand at h
  split at h
  case h_1 hc | h_10 hc => exact isRow_of_decodePlain h hc hk rfl rfl
  case h_11 hc => exact isRow_of_decodeSmall h (fun _ => hc) (fun _ => hk) (fun _ => rfl) (fun _ => rfl)
  case h_12 => cases h
  all_goals cases h; exact ⟨‹_›, hk, rfl, rfl, rfl⟩

theorem isRow_of_decode (h : f.decode = .ok i) : f.IsRow i := by
  unfold RequestFields.decode at h
  split at h
  · next hk => exact isRow_of_decodeSelector hk h
  · next hk => exact isRow_of_decodeCommand hk h
  · cases h

end

/-! ### Selectors that name no operation (R120) -/

/-- Every code but the nineteen selectors is refused in a request by selector. -/
theorem decodeSelector_of_not_mem {f : RequestFields}
    (h : f.code ∉ [0x01#8, 0x02#8, 0x03#8, 0x04#8, 0x05#8, 0x06#8, 0x07#8, 0x08#8, 0x09#8, 0x0A#8, 0x0B#8, 0x0C#8,
      0x0D#8, 0x0E#8, 0x0F#8, 0x10#8, 0x11#8, 0x12#8, 0x20#8]) :
    f.decodeSelector = .error (.unknownSelector f.code) := by
  unfold RequestFields.decodeSelector
  split
  case h_20 => rfl
  all_goals simp [← BitVec.toNat_inj, ‹f.code.toNat = _›] at h

end Sys2Proof

namespace Sys2Proof.Machine

/-! ### The step (R6) -/

section

variable {s : State} {w : RequestWord} {rest : List RequestWord} (hreq : s.requests = w :: rest)

include hreq

theorem step_of_fetch_ok {i : Instr} (h : fetchRequest s.cfg w = .ok i) :
    step s = exec i { s with requests := rest } := by
  simp only [step, hreq, h, State.takeRequest, List.tail_cons]

theorem step_of_fetch_error {r : Refusal} (h : fetchRequest s.cfg w = .error r) : step s = .refused r := by
  simp only [step, hreq, h]

end

theorem fetchRequest_of_error {c : Config} {w : RequestWord} {e : DecodeError} (h : decode w = .error e) :
    fetchRequest c w = .error (refusalOf e) := by
  rw [fetchRequest, h]

theorem fetchRequest_of_ok {c : Config} {w : RequestWord} {i : Instr} (h : decode w = .ok i) :
    fetchRequest c w = if i.wf c then .ok i else .error (.operandOutsideWidth i.code) := by
  rw [fetchRequest, h]

theorem decode_of_kind_zero {w : RequestWord} (hk : w.extractLsb' 8 8 = 0#8) : decode w = w.split.decodeSelector := by
  have hkind : w.split.kind = 0#8 := hk
  rw [decode, RequestFields.decode, hkind]
  rfl

/-! ### The statements -/

/-- Settles O1: by the fields of the word, which `split` and `pack` carry both ways. -/
theorem decodeEncodeAgree : Obligations.DecodeEncodeAgree := by
  refine ⟨fun i => (decode_encode_fields i).trans (decode_fields i), fun w i h => ?_⟩
  rw [encode, (isRow_of_decode h).fields_eq, RequestWord.pack_split]

/-- Settles O2: the words are written out, so each decodes by evaluation. -/
theorem writtenOutWordsDecode : Obligations.WrittenOutWordsDecode := by
  unfold Obligations.WrittenOutWordsDecode
  decide

/-- Settles O3: what `fetchRequest` makes of the word decides the step. -/
theorem stepRunsOldestRequest : Obligations.StepRunsOldestRequest := by
  refine ⟨fun s w rest hreq => ?_, fun s hreq => by rw [step, hreq]⟩
  refine ⟨fun i hi hwf => ?_, fun i hi hwf => ?_, fun c hc => ?_, fun c hc => ?_, fun hk hcode => ?_⟩
  · exact step_of_fetch_ok hreq ((fetchRequest_of_ok hi).trans (if_pos hwf))
  · exact step_of_fetch_error hreq ((fetchRequest_of_ok hi).trans (if_neg (ne_true_of_eq_false hwf)))
  · exact step_of_fetch_error hreq (fetchRequest_of_error hc)
  · exact step_of_fetch_error hreq (fetchRequest_of_error hc)
  · have hdecode := (decode_of_kind_zero hk).trans (decodeSelector_of_not_mem hcode)
    exact step_of_fetch_error hreq (fetchRequest_of_error hdecode)

end Sys2Proof.Machine

/-! Proofs about what every step keeps (spec/10_state.md R33, R37, R53; spec/20_memory.md R71, R76): each invariant is
shown of the single effects of an operation (`Effect`), and `exec_effects` carries it through every instruction. -/

namespace Sys2Proof.Machine

/-! ### From effects to steps -/

/-- What every effect keeps, and what does not look at the queue, a step keeps. -/
theorem step_keeps {P : State → Prop} (hP : ∀ {m : Prop} {s t : State}, Effect m s t → P s → P t)
    (hreq : ∀ s, P s → P s.takeRequest) {s t : State} (h : step s = .next t) (hs : P s) : P t := by
  obtain ⟨_, rfl⟩ | ⟨i, hi⟩ := step_cases h
  · exact hs
  · exact (exec_effects hi).keeps (fun _ _ => hP) (hreq s hs)

/-! ### The descriptor (R33) -/

theorem parseSectorSize_ne_zero (w : IdentBuf) (version : Byte) : parseSectorSize w version ≠ 0#32 := by
  unfold parseSectorSize
  split
  · next h => exact h.2
  · decide

theorem parseAtaVersion_legal (v : Word) :
    parseAtaVersion v = 0#8 ∨ (2 ≤ (parseAtaVersion v).toNat ∧ (parseAtaVersion v).toNat ≤ 8) := by
  by_cases hv : v = 0x0000#16 ∨ v = 0xFFFF#16
  · exact .inl (parseAtaVersion_of_unreported hv)
  · obtain ⟨h0, h1⟩ := not_or.1 hv
    cases h : scanDown v 2 6 with
    | none => exact .inl (parseAtaVersion_of_scanDown_none h0 h1 h)
    | some i =>
      obtain ⟨hi, _, _⟩ := scanDown_eq_some_iff.1 h
      rw [parseAtaVersion_of_scanDown_some h0 h1 h, BitVec.toNat_ofNat]
      omega

theorem udmaFieldOk_of_highestBit {v : Word} {base top : Nat} {r : Byte} (htop : top ≤ 6)
    (h : highestBit v base top r) : udmaFieldOk r := by
  obtain ⟨i, hi, _, _, rfl⟩ | ⟨_, rfl⟩ := h
  · rw [udmaFieldOk, BitVec.toNat_ofNat]
    omega
  · exact .inr rfl

theorem udmaTop_le (version : Byte) : udmaTop version ≤ 6 := by
  unfold udmaTop
  split <;> decide

/-- What a commit records meets R33, whatever the answer was. -/
theorem commit_descriptorOk {s : State} {w : IdentBuf} {f : Descriptor} (h : parseIdentify w = some f) :
    (s.commit f).DescriptorOk := by
  obtain rfl := eq_identFields_of_parseIdentify h
  refine ⟨fun _ => parseSectorSize_ne_zero _ _, ?_, parseAtaVersion_legal _, fun _ => ⟨?_, ?_⟩⟩
  · exact decide_eq_false_iff_not.trans not_not
  · exact udmaFieldOk_of_highestBit (udmaTop_le _) (highestBit_parseUdma _ _ _)
  · exact udmaFieldOk_of_highestBit (udmaTop_le _) (highestBit_parseUdma _ _ _)

theorem Effect.keeps_descriptorOk {m : Prop} {s t : State} (e : Effect m s t) (hs : s.DescriptorOk) :
    t.DescriptorOk := by
  cases e with
  | io h => rwa [State.DescriptorOk, h.desc_eq, h.identified_eq]
  | unidentify =>
    obtain ⟨_, hmultiple, hversion, _⟩ := hs
    exact ⟨nofun, hmultiple, hversion, nofun⟩
  | memWrite a v _ _ h =>
    obtain ⟨_, _, rfl⟩ := memWrite16_eq_ok h
    exact hs
  | commit f hf _ => exact commit_descriptorOk hf
  | _ => exact hs

/-! ### The tag and the cursor (R37) -/

theorem isMultiple_of_not_isData {t : Tag} (h : t.isData = false) : t.isMultiple = false := by
  cases t with
  | read | write | readMultiple | writeMultiple => cases h
  | _ => rfl

theorem selectOpcode_isData (d : Descriptor) (dir : Dir) : (tagOf (selectOpcode d dir)).isData = true := by
  cases dir <;> simp only [selectOpcode] <;> split <;> rfl

/-- The block selects a multiple command exactly in multiple mode (30_encoding.md R111). -/
theorem selectOpcode_isMultiple (d : Descriptor) (dir : Dir) :
    (tagOf (selectOpcode d dir)).isMultiple = multipleOn d := by
  cases dir <;> cases hl : d.hasLba48 <;> cases hm : multipleOn d <;>
    simp [selectOpcode, hl, hm, tagOf, Tag.isMultiple]

theorem multipleOn_ne_zero {d : Descriptor} (h : multipleOn d = true) : d.currentMultipleSectorSize ≠ 0#8 := by
  rw [multipleOn, Bool.and_eq_true, decide_eq_true_eq] at h
  exact h.2

theorem Effect.keeps_tagOk {m : Prop} {s t : State} (e : Effect m s t) (hs : s.TagOk) : t.TagOk := by
  obtain ⟨hcursor, hblock⟩ := hs
  cases e with
  | io h => rw [State.TagOk, h.tag_eq, h.cursorPtr_eq, h.remaining_eq, h.desc_eq]; exact ⟨hcursor, hblock⟩
  | endCommand => exact ⟨fun _ => ⟨rfl, rfl⟩, nofun⟩
  | issue op hnone hadmin =>
    refine ⟨fun _ => hcursor (by rw [hnone]; rfl), fun hmul => ?_⟩
    exact absurd ((isMultiple_of_not_isData hadmin).symm.trans hmul) Bool.false_ne_true
  | issueRW dir a n _ =>
    refine ⟨fun hadmin => ?_, fun hmul => multipleOn_ne_zero ((selectOpcode_isMultiple _ dir).symm.trans hmul)⟩
    exact absurd (hadmin.symm.trans (selectOpcode_isData _ dir)) Bool.false_ne_true
  | memWrite a v _ _ h =>
    obtain ⟨_, _, rfl⟩ := memWrite16_eq_ok h
    exact ⟨hcursor, hblock⟩
  | advance a n hdata => exact ⟨fun hadmin => absurd (hadmin.symm.trans hdata) Bool.false_ne_true, hblock⟩
  | commit f _ hplain => exact ⟨hcursor, fun hmul => absurd (hplain.symm.trans hmul) Bool.false_ne_true⟩
  | currentMultiple v hplain => exact ⟨hcursor, fun hmul => absurd (hplain.symm.trans hmul) Bool.false_ne_true⟩
  | _ => exact ⟨hcursor, hblock⟩

/-! ### Caller memory and the width of the cursor -/

theorem ptrWidth_bits_le (w : PtrWidth) : w.bits ≤ 64 := by cases w <;> decide

/-- An address within `PTR_WIDTH` bits is held as it is. -/
theorem toPtr_of_lt {c : Config} {a : Nat} (h : a < 2 ^ c.ptrWidth.bits) : toPtr c a = BitVec.ofNat 64 a := by
  rw [toPtr, Nat.mod_eq_of_lt h]

theorem toPtr_lt (c : Config) (a : Nat) : (toPtr c a).toNat < 2 ^ c.ptrWidth.bits := by
  have hmod : a % 2 ^ c.ptrWidth.bits < 2 ^ c.ptrWidth.bits := Nat.mod_lt _ (Nat.two_pow_pos _)
  rw [toPtr, BitVec.toNat_ofNat]
  exact (Nat.mod_le _ _).trans_lt hmod

theorem Effect.keeps_memory_wf {m : Prop} {s t : State} (e : Effect m s t) (hs : Memory.wf s.mem = true) :
    Memory.wf t.mem = true := by
  cases e with
  | io h => rwa [h.mem_eq]
  | memWrite a v _ _ h => exact memWrite16_wf h hs
  | _ => exact hs

theorem Effect.keeps_cursorOk {m : Prop} {s t : State} (e : Effect m s t) (hs : s.CursorOk) : t.CursorOk := by
  cases e with
  | io h => rwa [State.CursorOk, h.cursorPtr_eq, h.cfg_eq]
  | endCommand => exact Nat.two_pow_pos _
  | issueRW dir a n _ => exact toPtr_lt _ _
  | memWrite a v _ _ h =>
    obtain ⟨_, _, rfl⟩ := memWrite16_eq_ok h
    exact hs
  | advance a n _ => exact toPtr_lt _ _
  | _ => exact hs

/-! ### What no instruction touches (R53) -/

theorem Effect.fixed {m : Prop} {s t : State} (e : Effect m s t) :
    t.cfg = s.cfg ∧ t.holes = s.holes ∧ t.requests = s.requests := by
  cases e with
  | io h => exact ⟨h.cfg_eq, h.holes_eq, h.requests_eq⟩
  | memWrite a v _ _ h =>
    obtain ⟨_, _, rfl⟩ := memWrite16_eq_ok h
    exact ⟨rfl, rfl, rfl⟩
  | _ => exact ⟨rfl, rfl, rfl⟩

theorem Effects.fixed {m : Prop} {s t : State} (h : Effects m s t) :
    t.cfg = s.cfg ∧ t.holes = s.holes ∧ t.requests = s.requests := by
  induction h with
  | refl => exact ⟨rfl, rfl, rfl⟩
  | tail _ e ih =>
    obtain ⟨hcfg, hholes, hreq⟩ := e.fixed
    obtain ⟨hcfg', hholes', hreq'⟩ := ih
    exact ⟨hcfg.trans hcfg', hholes.trans hholes', hreq.trans hreq'⟩

theorem Effect.mem_eq {m : Prop} (hm : ¬ m) {s t : State} (e : Effect m s t) : t.mem = s.mem := by
  cases e with
  | io h => exact h.mem_eq
  | memWrite a v hmem _ _ => exact absurd hmem hm
  | _ => rfl

theorem Effects.mem_eq {m : Prop} (hm : ¬ m) {s t : State} (h : Effects m s t) : t.mem = s.mem := by
  induction h with
  | refl => rfl
  | tail _ e ih => exact (e.mem_eq hm).trans ih

/-! ### How instructions end (60_exceptions.md R340, R344) -/

/-- Every meaning ends with a result; only one that may touch caller memory can be stuck. -/
theorem exec_ends (i : Instr) (s : State) :
    (∃ (t : State) (c : ResultCode) (v : ResultValue), exec i s = .next (t.setResult c v)) ∨
    (touchesMemory i = true ∧ ∃ f, exec i s = .fault f) := by
  have hmem : ∀ r : MemOut, (∃ t c v, finishMem r = .next (State.setResult t c v)) ∨ ∃ f, finishMem r = .fault f := by
    intro r
    cases r with
    | ok o => exact .inl ⟨o.2, o.1, .none, rfl⟩
    | error f => exact .inr ⟨f, rfl⟩
  cases i with
  | readSectors | readSectorsExt | readMultiple | readMultipleExt | writeSectors | writeSectorsExt | writeMultiple
  | writeMultipleExt | read | write | transferUnit => exact (hmem _).imp_right fun hf => ⟨rfl, hf⟩
  | onInterrupt =>
    simp only [exec, execOnInterrupt]
    split
    · next f _ => exact .inr ⟨rfl, f, rfl⟩
    · exact .inl ⟨_, _, _, rfl⟩
  | _ => exact .inl ⟨_, _, _, rfl⟩

theorem exec_result_ne_none {i : Instr} {s t : State} (h : exec i s = .next t) : t.result ≠ none := by
  obtain ⟨u, c, v, hu⟩ | ⟨_, f, hf⟩ := exec_ends i s
  · cases hu.symm.trans h
    exact nofun
  · cases hf.symm.trans h

/-- An instruction that runs no unit transfer always answers. -/
theorem exec_answers_of_not_touchesMemory {i : Instr} (hi : touchesMemory i = false) (s : State) :
    ∃ t, exec i s = .next t := by
  obtain ⟨u, c, v, hu⟩ | ⟨htouch, _⟩ := exec_ends i s
  · exact ⟨_, hu⟩
  · exact absurd (hi.symm.trans htouch) Bool.false_ne_true

theorem BlockEvent.not_memoryEvent {c : Config} {g : Grants} (hg : ¬ g.memory) {e : Event} (h : BlockEvent c g e) :
    isMemoryEvent e = false := by
  cases h with
  | memRead hm | memWrite hm => exact absurd hm hg
  | _ => rfl

/-! ### One command at a time (70_reset_and_hazards.md R390) -/

theorem identifyCommand_of_active {s : State} (ht : s.tag ≠ .none) : identifyCommand s = (.protocolViolation, s) :=
  if_pos ht

/-- An operation that starts a command is guarded, or makes the same test of the tag itself. -/
theorem exec_startsCommand_of_active {i : Instr} {s : State} (hi : startsCommand i = true) (ht : s.tag ≠ .none) :
    exec i s = .next (s.setResult .protocolViolation .none) := by
  cases i with
  | identify | identifyDevice => exact finish_eq_next (identifyCommand_of_active ht)
  | selectDrive d => exact finish_eq_next (driveSelect_of_active ht)
  | setInterruptMode e => exact finish_eq_next (interruptMode_of_active ht)
  | read | write | readSectors | readSectorsExt | readMultiple | readMultipleExt | writeSectors | writeSectorsExt
  | writeMultiple | writeMultipleExt | flush | flushCache | setMultipleMode | setMultipleModeCommand =>
    exact exec_guardedCommand_of_refused (.inr ht) rfl
  | _ => cases hi

theorem issueNamed_of_not_selected {op : AtaOpcode} {dir : Dir} {s : State} (h : selectOpcode s.desc dir ≠ op)
    (buf : Addr) (start count : DWord) : issueNamed op dir buf start count s = .ok (.protocolViolation, s) := if_neg h

/-! ### The statements -/

/-- Settles O6: no effect breaks R33, and a commit records a parse that meets it. -/
theorem stepKeepsDescriptorInvariants : Obligations.StepKeepsDescriptorInvariants := fun _ _ hs h =>
  step_keeps Effect.keeps_descriptorOk (fun _ hs => hs) h hs

/-- Settles O7: no effect breaks R37; a multiple command is issued in multiple mode only. -/
theorem stepKeepsTagInvariants : Obligations.StepKeepsTagInvariants := fun _ _ hs h =>
  step_keeps Effect.keeps_tagOk (fun _ hs => hs) h hs

/-- Settles O8: stores keep the canonical form, and every cursor is cut to `PTR_WIDTH` bits. -/
theorem stepKeepsMemoryAndCursorForm : Obligations.StepKeepsMemoryAndCursorForm := fun _ _ hm hc h =>
  ⟨step_keeps (P := fun s => Memory.wf s.mem = true) Effect.keeps_memory_wf (fun _ hs => hs) h hm,
    step_keeps Effect.keeps_cursorOk (fun _ hs => hs) h hc⟩

/-- Settles O5: every field is written out. -/
theorem resetMeetsInvariants : Obligations.ResetMeetsInvariants :=
  ⟨⟨nofun, iff_of_true rfl rfl, .inl rfl, nofun⟩, ⟨fun _ => ⟨rfl, rfl⟩, nofun⟩, Nat.two_pow_pos _, rfl, by decide⟩

/-- Settles O9: no effect touches the three fields, and every meaning ends with a result. -/
theorem stepKeepsParameters : Obligations.StepKeepsParameters := by
  intro s t h
  obtain ⟨hempty, rfl⟩ | ⟨i, hi⟩ := step_cases h
  · exact ⟨rfl, rfl, by rw [hempty]; rfl, fun hne => absurd hempty hne⟩
  · obtain ⟨hcfg, hholes, hreq⟩ := (exec_effects hi).fixed
    exact ⟨hcfg, hholes, hreq, fun _ => exec_result_ne_none hi⟩

/-- Settles O15: without a grant for caller memory no effect and no event touches it. -/
theorem onlyTransfersTouchMemory : Obligations.OnlyTransfersTouchMemory := by
  intro i s hi
  obtain ⟨t, ht⟩ := exec_answers_of_not_touchesMemory hi s
  have hno : ¬ touchesMemory i = true := ne_true_of_eq_false hi
  obtain ⟨evs, hadds, hevs⟩ := exec_adds_blockEvents ht
  exact ⟨t, evs, ht, (exec_effects ht).mem_eq hno, hadds, fun e he => (hevs e he).not_memoryEvent hno⟩

/-- Settles O16: the operations that start a command one by one. -/
theorem oneCommandAtATime : Obligations.OneCommandAtATime := fun _ _ => exec_startsCommand_of_active

/-- Settles O36: the eight named commands one by one. -/
theorem namedCommandNotSelected : Obligations.NamedCommandNotSelected := by
  intro i op dir s hi hsel
  cases i with
  | readSectors | readSectorsExt | readMultiple | readMultipleExt | writeSectors | writeSectorsExt | writeMultiple
  | writeMultipleExt =>
    cases hi
    exact finishMem_eq_next (issueNamed_of_not_selected hsel ..)
  | _ => cases hi

end Sys2Proof.Machine

/-! Proofs about the port accesses of every step (spec/30_encoding.md R112, spec/40_register_protocol.md R148) and about
which instructions read Status and reach the interrupt controller (spec/70_reset_and_hazards.md R387). -/

namespace Sys2Proof.Machine

/-! ### The command register (30_encoding.md R110, R112) -/

theorem opcodeByte_mem (op : AtaOpcode) :
    opcodeByte op ∈ [0xEC#8, 0x20#8, 0x24#8, 0xC4#8, 0x29#8, 0x30#8, 0x34#8, 0xC5#8, 0x39#8, 0xE7#8, 0xC6#8] := by
  cases op <;> decide

theorem BlockEvent.commandWrite_value {c : Config} (hc : c.wf = true) {g : Grants} {v : Byte}
    (h : BlockEvent c g (.portWrite8 (portAddr c .command) v)) : ∃ op, v = opcodeByte op := by
  obtain ⟨p, hp, ha⟩ | ⟨ha, _⟩ | ⟨_, hop⟩ := h.portWrite8_cases
  · have hb := hp.offset_bounds
    have ho : 7 = p.offset := (portAddr_eq_iff hc .command p).1 ha
    omega
  · exact absurd ((portAddr_eq_iff hc .command .devCtl).1 ha) (by decide)
  · exact hop

/-! ### The 400 ns delay after a command (R148) -/

/-- In these events, newest first, each command byte comes with the reads of the 400 ns delay right after it. -/
def Settled (c : Config) (evs : List Event) : Prop :=
  ∀ pre v post, evs.reverse = pre ++ .portWrite8 (portAddr c .command) v :: post →
    ∃ vs : List Byte, vs.length = c.wait400Reads ∧ vs.map (Event.portRead8 (portAddr c .altStatus)) <+: post

theorem settled_of_no_command {c : Config} {evs : List Event}
    (h : ∀ v, .portWrite8 (portAddr c .command) v ∉ evs) : Settled c evs := by
  intro pre v post he
  have hmem : Event.portWrite8 (portAddr c .command) v ∈ evs.reverse := by simp [he]
  exact absurd (List.mem_reverse.1 hmem) (h v)

theorem settled_singleton {c : Config} {e : Event} (h : ∀ v, e ≠ .portWrite8 (portAddr c .command) v) :
    Settled c [e] :=
  settled_of_no_command fun v hv => h v (List.mem_singleton.1 hv).symm

/-- A delay that lies within the older run still follows its command where a newer run is added. -/
theorem Settled.append {c : Config} {a b : List Event} (ha : Settled c a) (hb : Settled c b) : Settled c (b ++ a) := by
  intro pre v post he
  rw [List.reverse_append, List.append_eq_append_iff] at he
  obtain ⟨mid, rfl, hmid⟩ | ⟨mid, hmid, hpost⟩ := he
  · exact hb mid v post hmid
  · cases mid with
    | nil => exact hb [] v post (by simpa using hpost.symm)
    | cons e mid =>
      obtain ⟨rfl, rfl⟩ := List.cons_eq_cons.1 hpost
      obtain ⟨vs, hlen, hpre⟩ := ha pre v mid hmid
      exact ⟨vs, hlen, hpre.trans (List.prefix_append _ _)⟩

theorem settled_command (c : Config) (op : AtaOpcode) {vs : List Byte} (hvs : vs.length = c.wait400Reads) :
    Settled c (vs.map (.portRead8 (portAddr c .altStatus)) ++ [.portWrite8 (portAddr c .command) (opcodeByte op)]) := by
  intro pre v post he
  rw [List.reverse_append, List.reverse_singleton, List.singleton_append, ← List.map_reverse] at he
  cases pre with
  | nil =>
    obtain ⟨_, rfl⟩ := List.cons_eq_cons.1 he
    exact ⟨vs.reverse, by rw [List.length_reverse, hvs], List.prefix_rfl⟩
  | cons e pre =>
    obtain ⟨_, hrest⟩ := List.cons_eq_cons.1 he
    have hmem : Event.portWrite8 (portAddr c .command) v ∈ vs.reverse.map (.portRead8 (portAddr c .altStatus)) := by
      simp [hrest]
    obtain ⟨_, _, hread⟩ := List.mem_map.1 hmem
    cases hread

theorem portWrite8_ne_command {c : Config} (hc : c.wf = true) {p : Port} (hp : p.offset ≠ 7) (v w : Byte) :
    Event.portWrite8 (portAddr c p) v ≠ .portWrite8 (portAddr c .command) w := by
  intro he
  exact hp ((portAddr_eq_iff hc p .command).1 (Event.portWrite8.inj he).1)

theorem settled_traceRule {c : Config} (hc : c.wf = true) (g : Grants) : TraceRule c g (Settled c) where
  nil := settled_of_no_command fun _ => List.not_mem_nil
  append _ _ ha hb := ha.append hb
  altRead _ := settled_singleton nofun
  errorRead _ := settled_singleton nofun
  drvHeadRead _ := settled_singleton nofun
  statusRead _ _ := settled_singleton nofun
  dataRead _ := settled_singleton nofun
  dataWrite _ _ := settled_singleton nofun
  taskWrite p v hp := settled_singleton (portWrite8_ne_command hc
    (fun h => by have hb := Port.IsTaskFile.offset_bounds hp; omega) v)
  devCtlWrite v _ := settled_singleton (portWrite8_ne_command hc (by decide) v)
  commandWrite op _ hvs := settled_command c op hvs
  delay := settled_singleton nofun
  memRead _ _ _ := settled_singleton nofun
  memWrite _ _ _ := settled_singleton nofun
  maskLine _ := settled_singleton nofun
  unmaskLine _ := settled_singleton nofun
  sendEOI _ := settled_singleton nofun

/-- An instruction adds a settled run. -/
theorem exec_adds_settled {i : Instr} {s t : State} (hc : s.cfg.wf = true) (h : exec i s = .next t) :
    ∃ evs, AddsEvents s t evs ∧ Settled s.cfg evs.reverse := by
  obtain ⟨_, evs, hevs, htrace⟩ := exec_traces (settled_traceRule hc (grantsOf i)) h rfl
  exact ⟨evs.reverse, by simpa [AddsEvents] using htrace, by rwa [List.reverse_reverse]⟩

/-! ### Status and the interrupt controller (R387, R282, R314) -/

theorem BlockEvent.statusRead_granted {c : Config} (hc : c.wf = true) {g : Grants} {v : Byte}
    (h : BlockEvent c g (.portRead8 (portAddr c .status) v)) : g.status := by
  have hother : ∀ p : Port, p.offset ≠ 7 → portAddr c .status ≠ portAddr c p := fun p hp ha =>
    hp ((portAddr_eq_iff hc .status p).1 ha).symm
  generalize ha : portAddr c .status = a at h
  cases h with
  | altRead => exact absurd ha (hother .altStatus (by decide))
  | errorRead => exact absurd ha (hother .error (by decide))
  | drvHeadRead => exact absurd ha (hother .drvHead (by decide))
  | statusRead hg => exact hg

theorem BlockEvent.sendEOI_granted {c : Config} {g : Grants} {l : Nat} (h : BlockEvent c g (.sendEOI l)) :
    g.eoi ∧ l = c.irqLine := by
  cases h with
  | sendEOI hg => exact ⟨hg, rfl⟩

theorem BlockEvent.maskLine_granted {c : Config} {g : Grants} {l : Nat} (h : BlockEvent c g (.maskLine l)) :
    g.mask ∧ l = c.irqLine := by
  cases h with
  | maskLine hg => exact ⟨hg, rfl⟩

theorem BlockEvent.unmaskLine_granted {c : Config} {g : Grants} {l : Nat} (h : BlockEvent c g (.unmaskLine l)) :
    g.mask ∧ l = c.irqLine := by
  cases h with
  | unmaskLine hg => exact ⟨hg, rfl⟩

/-- The events of `setInterruptMode`: the mode's byte and the line, or nothing. -/
theorem setInterruptMode_addsEvents {e : Bool} {s t : State} (h : exec (.setInterruptMode e) s = .next t) :
    ∃ evs, AddsEvents s t evs ∧ ∀ ev ∈ evs, ev = .portWrite8 (portAddr s.cfg .devCtl) (devCtlMode e) ∨
      ev = if e then .unmaskLine s.cfg.irqLine else .maskLine s.cfg.irqLine := by
  by_cases ht : s.tag = .none
  · cases (finish_eq_next (interruptMode_of_idle ht)).symm.trans h
    exact ⟨_, rfl, fun ev hev => by simpa using hev⟩
  · cases (finish_eq_next (interruptMode_of_active ht)).symm.trans h
    exact ⟨[], rfl, nofun⟩

/-! ### The statements -/

/-- Settles O11: every event of a step is one of `BlockEvent`, and only its command writes go to Command. -/
theorem commandPortTakesOnlyElevenOpcodes : Obligations.CommandPortTakesOnlyElevenOpcodes := by
  intro s t hc h
  obtain ⟨g, evs, hadds, hevs⟩ := step_adds_blockEvents h
  refine ⟨evs, hadds, fun v hv => ?_⟩
  obtain ⟨op, rfl⟩ := (hevs _ hv).commandWrite_value hc
  exact opcodeByte_mem op

/-- Settles O12: `Settled` obeys the trace rule, so every instruction adds a settled run. -/
theorem commandFollowedBySettleDelay : Obligations.CommandFollowedBySettleDelay := by
  intro s t hc h
  obtain ⟨_, rfl⟩ | ⟨i, hi⟩ := step_cases h
  · exact ⟨[], rfl, settled_of_no_command fun _ => List.not_mem_nil⟩
  · obtain ⟨evs, hadds, hsettled⟩ := exec_adds_settled (s := s.takeRequest) hc hi
    exact ⟨evs, hadds, by simpa [Settled] using hsettled⟩

/-- Settles O14: the grants of each instruction; `setInterruptMode` by its two events. -/
theorem statusReadsAndControllerRequests : Obligations.StatusReadsAndControllerRequests := by
  intro i s t hc h
  by_cases hmode : ∃ e, i = .setInterruptMode e
  · obtain ⟨e, rfl⟩ := hmode
    obtain ⟨evs, hadds, hevs⟩ := setInterruptMode_addsEvents h
    refine ⟨evs, hadds, ?_⟩
    cases e <;> refine ⟨fun v hv => ?_, fun l hl => ?_, fun l hl => ?_, fun l hl => ?_⟩
    all_goals obtain he | he := hevs _ ‹_› <;> cases he <;> exact ⟨rfl, rfl⟩
  · obtain ⟨evs, hadds, hevs⟩ := exec_adds_blockEvents h
    exact ⟨evs, hadds, fun v hv => (hevs _ hv).statusRead_granted hc, fun l hl => (hevs _ hl).sendEOI_granted,
      fun l hl => absurd (hevs _ hl).maskLine_granted.1 hmode,
      fun l hl => absurd (hevs _ hl).unmaskLine_granted.1 hmode⟩

end Sys2Proof.Machine

/-! Proofs about the command tag (spec/10_state.md R36): a run of the block either leaves the tag alone, or records in it a
command byte it wrote, or clears it after an Alternate Status byte that shows the device idle (`TagRun`). -/

namespace Sys2Proof.Machine

/-! ### Runs and the tag -/

/-- Between `s` and `t` the tag stayed, or the last change of it was one that R36 allows a command. -/
def TagRun (s t : State) : Prop :=
  ∃ evs, AddsEvents s t evs ∧ t.cfg = s.cfg ∧
    (t.tag = s.tag ∨ (∃ op, tagOf op = t.tag ∧ commandEvent s.cfg op ∈ evs) ∨
      (t.tag = .none ∧ ∃ v, .portRead8 (portAddr s.cfg .altStatus) v ∈ evs ∧ statusIdle v = true))

/-- The rule that allows every event: what obeys it only adds events and keeps the parameters. -/
theorem anyTrace (c : Config) : TraceRule c ⟨True, True, True, True⟩ fun _ => True := by
  constructor <;> intros <;> trivial

theorem TagRun.trans {s t u : State} (h₁ : TagRun s t) (h₂ : TagRun t u) : TagRun s u := by
  obtain ⟨a, ha, hcfg, htag⟩ := h₁
  obtain ⟨b, hb, hcfg', htag'⟩ := h₂
  refine ⟨a ++ b, ha.trans hb, hcfg'.trans hcfg, ?_⟩
  rw [hcfg] at htag'
  obtain hsame | ⟨op, hop, hmem⟩ | ⟨hnone, v, hmem, hidle⟩ := htag'
  · rw [hsame]
    exact htag.imp_right (Or.imp (fun ⟨op, hop, hmem⟩ => ⟨op, hop, List.mem_append_left _ hmem⟩)
      fun ⟨hnone, v, hmem, hidle⟩ => ⟨hnone, v, List.mem_append_left _ hmem, hidle⟩)
  · exact .inr (.inl ⟨op, hop, List.mem_append_right _ hmem⟩)
  · exact .inr (.inr ⟨hnone, v, List.mem_append_right _ hmem, hidle⟩)

/-- A run that ends with the tag it began with. -/
theorem TagRun.of_tag_eq {s t : State} (h : Traces s.cfg (fun _ => True) s t) (htag : t.tag = s.tag) : TagRun s t := by
  obtain ⟨hcfg, evs, _, htrace⟩ := h rfl
  exact ⟨evs.reverse, by simpa [AddsEvents] using htrace, hcfg, .inl htag⟩

theorem TagRun.silent {s t : State} (hcfg : t.cfg = s.cfg) (htrace : t.trace = s.trace) (htag : t.tag = s.tag) :
    TagRun s t := ⟨[], htrace, hcfg, .inl htag⟩

theorem TagRun.refl (s : State) : TagRun s s := .silent rfl rfl rfl

theorem IoRun.tagRun {s t : State} (h : IoRun s t) : TagRun s t := by
  obtain ⟨sc, d, tr, rfl⟩ := h
  exact ⟨tr.reverse, by simp [AddsEvents], rfl, .inl rfl⟩

theorem TagRun.andThen {s : State} {r : OpOut} {k : State → OpOut} (h : TagRun s r.2)
    (hk : r.1 = .ok → TagRun r.2 (k r.2).2) : TagRun s (OpOut.andThen r k).2 := by
  obtain ⟨_, he⟩ | ⟨hok, he⟩ := andThen_cases r k
  · rwa [he]
  · rw [he]
    exact h.trans (hk hok)

/-- The same for an operation that may have been stuck. -/
def TagRunMem (s : State) (r : MemOut) : Prop := ∀ o, r = .ok o → TagRun s o.2

theorem TagRunMem.of_ok {s : State} {o : OpOut} (h : TagRun s o.2) : TagRunMem s (.ok o) := by
  rintro _ ⟨⟩
  exact h

theorem TagRunMem.of_error {s : State} (f : Fault) : TagRunMem s (.error f) := by
  intro o ho
  cases ho

theorem TagRunMem.after {s t : State} {r : MemOut} (h₁ : TagRun s t) (h₂ : TagRunMem t r) : TagRunMem s r :=
  fun o ho => h₁.trans (h₂ o ho)

theorem TagRunMem.andThenMem {s : State} {r : OpOut} {k : State → MemOut} (h : TagRun s r.2)
    (hk : r.1 = .ok → TagRunMem r.2 (k r.2)) : TagRunMem s (OpOut.andThenMem r k) := by
  obtain ⟨_, he⟩ | ⟨hok, he⟩ := andThenMem_cases r k
  · rw [he]
    exact .of_ok h
  · rw [he]
    exact .after h (hk hok)

/-! ### The two ways a command changes the tag -/

/-- A command byte, and its tag. -/
theorem command_tagRun (op : AtaOpcode) (s : State) :
    TagRun s ((portWrite8 .command (opcodeByte op) s).setTag (tagOf op)) :=
  ⟨[commandEvent s.cfg op], rfl, rfl, .inr (.inl ⟨op, rfl, List.mem_singleton_self _⟩)⟩

/-- The end of a command on an idle Alternate Status byte. -/
theorem endCommand_tagRun_of_idle {s : State} (h : statusIdle (portRead8 .altStatus s).1 = true) :
    TagRun s (portRead8 .altStatus s).2.endCommand :=
  ⟨[.portRead8 (portAddr s.cfg .altStatus) (portRead8 .altStatus s).1], rfl, rfl,
    .inr (.inr ⟨rfl, _, List.mem_singleton_self _, h⟩)⟩

/-- The end of a command that was issued in this run: the tag is again what it was. -/
theorem endCommand_tagRun_of_issued {s u v : State} (hs : s.tag = .none) (h₁ : TagRun s u) (h₂ : IoRun u v) :
    TagRun s v.endCommand := by
  obtain ⟨evs, hadds, hcfg, _⟩ := h₁.trans h₂.tagRun
  exact ⟨evs, hadds, hcfg, .inl hs.symm⟩

theorem statusIdle_of_not {b : Byte} (hb : ¬ statusBsy b = true) (hd : (!statusDrq b) = true) :
    statusIdle b = true := by
  rw [statusIdle, hd, Bool.eq_false_iff.2 hb]
  rfl

/-! ### Device commands -/

theorem immediateErrorCheck_tagRun {s u : State} (hs : s.tag = .none) (h : TagRun s u) :
    TagRun s (immediateErrorCheck u).2 := by
  obtain ⟨_, hio⟩ | ⟨_, v, hio, he⟩ := immediateErrorCheck_cases u
  · exact h.trans hio.tagRun
  · rw [he]
    exact endCommand_tagRun_of_issued hs h hio

theorem issueCommand_tagRun (op : AtaOpcode) {s : State} (hs : s.tag = .none) : TagRun s (issueCommand op s).2 :=
  immediateErrorCheck_tagRun hs (command_tagRun op s)

theorem finishCheck_tagRun (s : State) : TagRun s (finishCheck s).2 := by
  unfold finishCheck
  dsimp only
  split
  · next h => exact endCommand_tagRun_of_idle h
  · exact (portRead8_ioRun _ _).tagRun

theorem pollFinish_tagRun (s : State) : TagRun s (pollFinish s).2 :=
  .andThen (pollBusy_ioRun _ _).tagRun fun _ => finishCheck_tagRun _

theorem flushCommand_tagRun (s : State) : TagRun s (flushCommand s).2 := by
  refine .andThen (by rw [commandGuard_eq]; exact .refl s) fun hg => ?_
  obtain ⟨_, ht, he⟩ := commandGuard_ok hg
  rw [he]
  have hr := checkReady_ioRun s
  refine .andThen hr.tagRun fun _ => .andThen (issueCommand_tagRun _ (hr.tag_eq.trans ht)) fun _ => ?_
  split
  · exact .refl _
  · exact pollFinish_tagRun _

theorem setMultipleCommand_tagRun (m : Byte) (s : State) : TagRun s (setMultipleCommand m s).2 := by
  refine .andThen (by rw [commandGuard_eq]; exact .refl s) fun hg => ?_
  obtain ⟨_, ht, he⟩ := commandGuard_ok hg
  rw [he]
  split
  · exact .refl s
  · split
    · exact .refl s
    · have hr := checkReady_ioRun s
      have hw := portWrite8_ioRun .count m (checkReady s).2
      refine .andThen hr.tagRun fun _ =>
        .andThen (hw.tagRun.trans (issueCommand_tagRun _ ((hr.trans hw).tag_eq.trans ht))) fun _ =>
          .andThen (pollFinish_tagRun _) fun _ => .silent rfl rfl rfl

/-! ### Identification -/

theorem identBurst_tag (s : State) : (identBurst s).2.tag = s.tag := by
  have hd := (dataReads_ioRun s.cfg.identWords.count s).tag_eq
  unfold identBurst
  generalize dataReads s.cfg.identWords.count s = r at hd ⊢
  dsimp only
  split
  · rw [State.commit_tag, State.setIdentBuf_tag, hd]
  · rw [State.setIdentified_tag, State.setIdentBuf_tag, hd]

theorem identifyData_tagRun (s : State) : TagRun s (identifyData s).2 := by
  have hr := portRead8_ioRun .altStatus s
  unfold identifyData
  dsimp only
  split
  · exact hr.tagRun
  · next hb =>
    split
    · next hd => exact endCommand_tagRun_of_idle (statusIdle_of_not hb hd)
    · exact hr.tagRun.trans (.of_tag_eq (identBurst_traces (anyTrace _) _) (identBurst_tag _))

theorem identifyPolled_tagRun (s : State) : TagRun s (identifyPolled s).2 := by
  refine .andThen (pollBusy_ioRun _ _).tagRun fun _ => ?_
  have hd := identifyData_tagRun (pollBusy s.cfg.pollBudget s).2
  dsimp only
  split
  · exact hd
  · split
    · exact hd
    · exact hd.trans (.andThen ((wait400_ioRun _).trans (pollBusy_ioRun _ _)).tagRun fun _ => finishCheck_tagRun _)

theorem identifyCommand_tagRun (s : State) : TagRun s (identifyCommand s).2 := by
  have hr := portRead8_ioRun .altStatus s
  unfold identifyCommand
  split
  · exact .refl s
  · next hn =>
    dsimp only
    split
    · exact hr.tagRun
    · refine .andThen (hr.tagRun.trans (issueCommand_tagRun _ (hr.tag_eq.trans (not_not.1 hn)))) fun _ => ?_
      split
      · exact .refl _
      · exact identifyPolled_tagRun _

/-! ### Transfers and interrupts -/

theorem moveUnit_tagRun {s t : State} (h : moveUnit s = .ok t) : TagRun s t :=
  .of_tag_eq (moveUnit_traces (anyTrace _) trivial s t h) (moveUnit_effects trivial h).2.1

theorem transfer_tagRun (s : State) : TagRunMem s (transfer s) := by
  have hr := portRead8_ioRun .altStatus s
  unfold transfer
  split
  · exact .of_ok (.refl s)
  · dsimp only
    split
    · exact .of_ok hr.tagRun
    · next hb =>
      split
      · next hd => exact .of_ok (endCommand_tagRun_of_idle (statusIdle_of_not hb hd))
      · split
        · next f _ => exact .of_error f
        · next hm => exact .of_ok ((hr.tagRun.trans (moveUnit_tagRun hm)).trans (.silent rfl rfl rfl))

theorem pollLoop_tagRun (n : Nat) (s : State) : TagRunMem s (pollLoop n s) := by
  induction n generalizing s with
  | zero => exact .of_ok (.refl s)
  | succ n ih =>
    refine .andThenMem (pollBusy_ioRun _ _).tagRun fun _ => ?_
    cases htr : transfer (pollBusy s.cfg.pollBudget s).2 with
    | error f => exact .of_error f
    | ok r =>
      rw [MemOut.andThen]
      refine .andThenMem (transfer_tagRun _ r htr) fun _ => ?_
      split
      · exact .of_ok ((wait400_ioRun _).tagRun.trans (pollFinish_tagRun _))
      · exact .after (wait400_ioRun _).tagRun (ih _)

theorem issueImage_tagRun (op : AtaOpcode) (buf : Addr) (start count : DWord) (s : State) :
    TagRun s (issueImage op buf start count s) :=
  ((portWrites_ioRun _ s).tagRun.trans (command_tagRun op _)).trans (.silent rfl rfl rfl)

theorem issueRW_tagRun (dir : Dir) (buf : Addr) (start count : DWord) (s : State) :
    TagRunMem s (issueRW dir buf start count s) := by
  refine .andThenMem (by rw [commandGuard_eq]; exact .refl s) fun hg => ?_
  obtain ⟨_, ht, he⟩ := commandGuard_ok hg
  rw [he]
  split
  · exact .of_ok (.refl s)
  · have hr := checkReady_ioRun s
    refine .andThenMem hr.tagRun fun _ =>
      .andThenMem (immediateErrorCheck_tagRun (hr.tag_eq.trans ht) (issueImage_tagRun _ _ _ _ _)) fun _ => ?_
    split
    · exact .of_ok (.refl _)
    · exact pollLoop_tagRun _ _

theorem issueNamed_tagRun (op : AtaOpcode) (dir : Dir) (buf : Addr) (start count : DWord) (s : State) :
    TagRunMem s (issueNamed op dir buf start count s) := by
  unfold issueNamed
  split
  · exact issueRW_tagRun dir buf start count s
  · exact .of_ok (.refl s)

theorem completeUnit_tagRun {s : State} {r : OpOut} (h : TagRun s r.2) : TagRun s (completeUnit r).2 := by
  unfold completeUnit
  split
  · have hw := h.trans (wait400_ioRun r.2).tagRun
    unfold completionCheck
    dsimp only
    split
    · next hi => exact hw.trans (endCommand_tagRun_of_idle hi)
    · exact hw.trans (portRead8_ioRun _ _).tagRun
  · exact h

theorem dispatchNoUnit_tagRun (status : Byte) (s : State) : TagRun s (dispatchNoUnit status s).2 := by
  unfold dispatchNoUnit
  split
  · exact .refl s
  · split
    case h_8 => exact completeUnit_tagRun (identifyData_tagRun s)
    case h_9 => exact .refl s
    all_goals exact completeUnit_tagRun (.refl s)

theorem dispatch_tagRun (status : Byte) (s : State) : TagRunMem s (dispatch status s) := by
  unfold dispatch
  split
  · split
    · next f _ => exact .of_error f
    · next r hr => exact .of_ok (completeUnit_tagRun (transfer_tagRun s r hr))
  · exact .of_ok (dispatchNoUnit_tagRun status s)

theorem onInterrupt_tagRun {s t : State} (h : exec .onInterrupt s = .next t) : TagRun s t := by
  obtain ⟨r, hr, rfl⟩ := dispatch_of_onInterrupt h
  have hentry : TagRun s (s.ranIo 1 [s.statusRead]) := ⟨_, rfl, rfl, .inl rfl⟩
  exact ((hentry.trans (dispatch_tagRun _ _ r hr)).trans (IoRun.emit _ _).tagRun).trans (.silent rfl rfl rfl)

/-! ### Reset and bring-up -/

/-- A software reset without an active command leaves none. -/
theorem reset_tag_of_none {s : State} (hs : s.tag = .none) : (reset s).2.tag = .none := by
  obtain ⟨_, h⟩ | ⟨_, u, _, he⟩ | ⟨_, u, _, he⟩ := reset_cases s
  · rw [h.tag_eq, hs]
  · rw [he]
    rfl
  · rw [he]
    rfl

theorem negotiateMultiple_tagRun (s : State) : TagRun s (negotiateMultiple s).2 := by
  unfold negotiateMultiple
  split
  · exact .silent rfl rfl rfl
  · exact setMultipleCommand_tagRun _ s

theorem bringUp_tagRun {s : State} (hs : s.tag = .none) : TagRun s (bringUp s).2 := by
  have hstart : TagRun s ((s.setIntEnabled false).setIdentified false) := .silent rfl rfl rfl
  refine .andThen (hstart.trans (.of_tag_eq (reset_traces (anyTrace _) _) ((reset_tag_of_none ?_).trans hs.symm)))
    fun _ => .andThen (.of_tag_eq (driveSelect_traces (anyTrace _) _ _) (driveSelect_keeps _ _).1) fun _ =>
      .andThen (identifyCommand_tagRun _) fun _ => .andThen (negotiateMultiple_tagRun _) fun _ =>
        (confirmAndDrain_ioRun _).tagRun
  exact hs

/-! ### Instructions -/

theorem finish_tagRun {s t : State} {r : OpOut} (h : TagRun s r.2) (ht : finish r = .next t) : TagRun s t := by
  cases ht
  exact h.trans (.silent rfl rfl rfl)

theorem finishMem_tagRun {s t : State} {r : MemOut} (h : TagRunMem s r) (ht : finishMem r = .next t) : TagRun s t := by
  cases r with
  | error f => cases ht
  | ok o => exact finish_tagRun (h o rfl) ht

theorem statusTest_tagRun {test : Byte → Bool} {s t : State} (ht : statusTest test s = .next t) : TagRun s t := by
  cases ht
  exact (portRead8_ioRun .altStatus s).tagRun.trans (.silent rfl rfl rfl)

theorem interruptMode_tagRun (e : Bool) (s : State) : TagRun s (interruptMode e s).2 := by
  have hset : TagRun s (s.setIntEnabled e) := .silent rfl rfl rfl
  unfold interruptMode
  split
  · exact .refl s
  · exact hset.trans ((portWrite8_ioRun _ _ _).trans (lineMask_ioRun _ _)).tagRun

/-- Every instruction but the two that reset the device obeys R36 from every state. -/
theorem exec_tagRun {i : Instr} {s t : State} (hreset : i ≠ .softwareReset) (hinit : i ≠ .initializeBlock)
    (h : exec i s = .next t) : TagRun s t := by
  cases i with
  | softwareReset => exact absurd rfl hreset
  | initializeBlock => exact absurd rfl hinit
  | identify | identifyDevice => exact finish_tagRun (identifyCommand_tagRun s) h
  | readSectors | readSectorsExt | readMultiple | readMultipleExt | writeSectors | writeSectorsExt | writeMultiple
  | writeMultipleExt => exact finishMem_tagRun (issueNamed_tagRun _ _ _ _ _ s) h
  | read | write => exact finishMem_tagRun (issueRW_tagRun _ _ _ _ s) h
  | flush | flushCache => exact finish_tagRun (flushCommand_tagRun s) h
  | setMultipleMode m | setMultipleModeCommand m => exact finish_tagRun (setMultipleCommand_tagRun m s) h
  | setInterruptMode e => exact finish_tagRun (interruptMode_tagRun e s) h
  | selectDrive d =>
    exact finish_tagRun (.of_tag_eq (driveSelect_traces (anyTrace _) d s) (driveSelect_keeps d s).1) h
  | getError =>
    cases h
    exact (portRead8_ioRun .error s).tagRun.trans (.silent rfl rfl rfl)
  | waitBusy b | waitDataRequest b | waitDeviceReady b => exact finish_tagRun (waitBit_ioRun _ _ _ s).tagRun h
  | isBusy | isDataRequestPending | hasError => exact statusTest_tagRun h
  | wait400ns => exact finish_tagRun (wait400_ioRun s).tagRun h
  | transferUnit => exact finishMem_tagRun (transfer_tagRun s) h
  | onInterrupt => exact onInterrupt_tagRun h

theorem tagOf_ne_none (op : AtaOpcode) : tagOf op ≠ .none := by cases op <;> decide

/-- A tag that leaves `NONE` is that of a command byte written. -/
theorem TagRun.command_written {s t : State} {evs : List Event} (h : TagRun s t) (hadds : AddsEvents s t evs)
    (hs : s.tag = .none) (ht : t.tag ≠ .none) : ∃ op, tagOf op = t.tag ∧ commandEvent s.cfg op ∈ evs := by
  obtain ⟨evs', hadds', _, hsame | hcommand | ⟨hnone, _⟩⟩ := h
  · exact absurd (hsame.trans hs) ht
  · rwa [List.reverse_injective (List.append_cancel_right (hadds'.symm.trans hadds))] at hcommand
  · exact absurd hnone ht

/-- A tag that returns to `NONE` follows an idle Alternate Status byte. -/
theorem TagRun.idle_read {s t : State} {evs : List Event} (h : TagRun s t) (hadds : AddsEvents s t evs)
    (hs : s.tag ≠ .none) (ht : t.tag = .none) :
    ∃ v, .portRead8 (portAddr s.cfg .altStatus) v ∈ evs ∧ v.getLsbD 7 = false ∧ v.getLsbD 3 = false := by
  obtain ⟨evs', hadds', _, hsame | ⟨op, hop, _⟩ | ⟨_, v, hmem, hidle⟩⟩ := h
  · exact absurd (hsame.symm.trans ht) hs
  · exact absurd (hop.trans ht) (tagOf_ne_none op)
  · rw [List.reverse_injective (List.append_cancel_right (hadds'.symm.trans hadds))] at hmem
    simp only [statusIdle, Bool.and_eq_true, Bool.not_eq_true'] at hidle
    exact ⟨v, hmem, hidle⟩

/-! ### The statement -/

/-- Settles O18: every instruction is a `TagRun`, the two that reset the device where no command is active. -/
theorem tagTransitions : Obligations.TagTransitions := by
  intro i s t h
  obtain ⟨evs, hadds, _⟩ := exec_adds_blockEvents h
  refine ⟨evs, hadds, fun hs ht => ?_, fun hs ht => ?_⟩
  · by_cases hreset : i = .softwareReset
    · subst hreset
      cases h
      exact absurd (reset_tag_of_none hs) ht
    · by_cases hinit : i = .initializeBlock
      · subst hinit
        exact (finish_tagRun (bringUp_tagRun hs) h).command_written hadds hs ht
      · exact (exec_tagRun hreset hinit h).command_written hadds hs ht
  · by_cases hreset : i = .softwareReset
    · exact .inl hreset
    · by_cases hinit : i = .initializeBlock
      · exact .inr (.inl hinit)
      · exact .inr (.inr ((exec_tagRun hreset hinit h).idle_read hadds hs ht))

end Sys2Proof.Machine

/-! Proofs about the commands without data (spec/42_command_transfer.md R223, R224, R250, R252). The checks and the polls
as runs `State.ranIo` from any place of the device's answers, so that a later operation can use them after other reads. -/

namespace Sys2Proof.Machine

/-! ### The ready check after a run (R221) -/

theorem checkReady_ranIo_of_readyMeets {s : State} {k a b c : Nat} {e : List Event}
    (h : (s.after k).readyMeets a b c) :
    checkReady (s.ranIo k e) = (.ok, s.ranIo (k + a + b + c + 3) (e ++ (s.after k).readyEvents a b c)) := by
  have hready : (s.ranIo k e).readyMeets a b c := h
  have hcount : k + (a + b + c + 3) = k + a + b + c + 3 := by omega
  rw [checkReady_of_readyMeets hready, State.ranIo_ranIo, hcount]
  rfl

theorem State.after_zero (s : State) : s.after 0 = s := s.ranIo_zero

/-! ### The immediate error check (R223) -/

theorem immediateErrorCheck_ranIo (s : State) (k : Nat) (e : List Event) :
    immediateErrorCheck (s.ranIo k e) =
      if immediateError (s.nextByte (k + s.cfg.wait400Reads)) then
        (.deviceError, (s.ranIo (k + s.cfg.wait400Reads + 1) (e ++ s.altReads k (s.cfg.wait400Reads + 1))).endCommand)
      else (.ok, s.ranIo (k + s.cfg.wait400Reads + 1) (e ++ s.altReads k (s.cfg.wait400Reads + 1))) := by
  have hreads : s.altReads k (s.cfg.wait400Reads + 1) =
      s.altReads k s.cfg.wait400Reads ++ [s.altRead (k + s.cfg.wait400Reads)] := State.altReads_add ..
  simp only [immediateErrorCheck, wait400_ranIo, altStatusRead_ranIo, hreads, List.append_assoc, immediateError]

/-- A command byte, its tag and the check: an immediate error ends the command. -/
theorem issueCommand_ranIo (op : AtaOpcode) (s : State) (k : Nat) (e : List Event) :
    issueCommand op (s.ranIo k e) =
      if immediateError (s.nextByte (k + s.cfg.wait400Reads)) then
        (.deviceError, (s.ranIo (k + s.cfg.wait400Reads + 1) (e ++ s.issueEvents op k)).endCommand)
      else (.ok, (s.ranIo (k + s.cfg.wait400Reads + 1) (e ++ s.issueEvents op k)).setTag (tagOf op)) := by
  have hevents : e ++ s.issueEvents op k =
      e ++ [commandEvent s.cfg op] ++ s.altReads k (s.cfg.wait400Reads + 1) := by
    rw [State.issueEvents, List.append_assoc, List.singleton_append]
  rw [issueCommand, portWrite8_ranIo, hevents]
  exact immediateErrorCheck_ranIo (s.setTag (tagOf op)) k _

section

variable {s : State} {op : AtaOpcode} {k : Nat} {e : List Event}

theorem issueCommand_ranIo_of_error (h : ¬ s.issueMeets k) :
    issueCommand op (s.ranIo k e) =
      (.deviceError, (s.ranIo (k + s.cfg.wait400Reads + 1) (e ++ s.issueEvents op k)).endCommand) := by
  rw [issueCommand_ranIo, if_pos (Bool.not_eq_false _ ▸ h)]

theorem issueCommand_ranIo_of_issueMeets (h : s.issueMeets k) :
    issueCommand op (s.ranIo k e) =
      (.ok, (s.ranIo (k + s.cfg.wait400Reads + 1) (e ++ s.issueEvents op k)).setTag (tagOf op)) := by
  rw [issueCommand_ranIo, if_neg (ne_true_of_eq_false h)]

end

/-! ### The finish check and the poll before it (R224) -/

theorem finishCheck_ranIo (s : State) (k : Nat) (e : List Event) :
    finishCheck (s.ranIo k e) =
      if statusIdle (s.nextByte k) then
        (failedOr (s.nextByte k) .ok, (s.ranIo (k + 1) (e ++ [s.altRead k])).endCommand)
      else (.protocolViolation, s.ranIo (k + 1) (e ++ [s.altRead k])) := by
  simp only [finishCheck, altStatusRead_ranIo]

section

variable {s : State} {k p : Nat} {e : List Event}

theorem pollFinish_ranIo_of_waitMisses (h : s.waitMisses 7 false k s.cfg.pollBudget) :
    pollFinish (s.ranIo k e) =
      (.timeout, s.ranIo (k + s.cfg.pollBudget) (e ++ s.attempts k s.cfg.pollBudget)) := by
  rw [pollFinish, State.ranIo_cfg, pollBusy_ranIo_of_waitMisses h, andThen_timeout]

/-- Past the poll the finish check decides. -/
theorem pollFinish_ranIo_of_waitMeets (hp : p < s.cfg.pollBudget) (h : s.waitMeets 7 false k p) :
    pollFinish (s.ranIo k e) =
      if statusIdle (s.nextByte (k + p + 1)) then
        (failedOr (s.nextByte (k + p + 1)) .ok, (s.ranIo (k + p + 2) (e ++ s.finishEvents k p)).endCommand)
      else (.protocolViolation, s.ranIo (k + p + 2) (e ++ s.finishEvents k p)) := by
  rw [pollFinish, State.ranIo_cfg, pollBusy_ranIo_of_waitMeets hp h, andThen_ok, finishCheck_ranIo, State.finishEvents,
    List.append_assoc]

/-- A poll and a finish check that end the command, whatever its tag. -/
theorem pollFinish_of_finishMeets (h : s.finishMeets k p) :
    pollFinish (s.ranIo k e) =
      (failedOr (s.nextByte (k + p + 1)) .ok, (s.ranIo (k + p + 2) (e ++ s.finishEvents k p)).endCommand) := by
  obtain ⟨hp, hm, hidle⟩ := h
  rw [pollFinish_ranIo_of_waitMeets hp hm, if_pos hidle]

theorem pollFinish_of_not_idle (hp : p < s.cfg.pollBudget) (h : s.waitMeets 7 false k p)
    (hidle : statusIdle (s.nextByte (k + p + 1)) = false) :
    pollFinish (s.ranIo k e) = (.protocolViolation, s.ranIo (k + p + 2) (e ++ s.finishEvents k p)) := by
  rw [pollFinish_ranIo_of_waitMeets hp h, if_neg (ne_true_of_eq_false hidle)]

end

/-! ### FLUSH CACHE (R250) -/

section

variable {s : State} {a b c : Nat}

/-- Ready and admitted, a flush is its command byte, then in polled mode the poll and the finish check. -/
theorem flushCommand_of_readyMeets (hi : s.identified = true) (ht : s.tag = .none) (h : s.readyMeets a b c) :
    flushCommand s = OpOut.andThen (issueCommand .flushCache (s.ranIo (a + b + c + 3) (s.readyEvents a b c)))
      fun u => if u.intEnabled then (.ok, u) else pollFinish u := by
  rw [flushCommand, commandGuard_of_admitted hi ht, andThen_ok, checkReady_of_readyMeets h, andThen_ok]

/-- A flush whose command byte is accepted goes on by the mode. -/
theorem flushCommand_of_issueMeets (hi : s.identified = true) (ht : s.tag = .none) (h : s.readyMeets a b c)
    (hissue : s.issueMeets (a + b + c + 3)) :
    flushCommand s =
      let u := (s.setTag .flushCache).ranIo (a + b + c + 3 + s.cfg.wait400Reads + 1)
        (s.readyEvents a b c ++ s.issueEvents .flushCache (a + b + c + 3))
      if s.intEnabled then (.ok, u) else pollFinish u := by
  rw [flushCommand_of_readyMeets hi ht h, issueCommand_ranIo_of_issueMeets hissue, andThen_ok]
  rfl

end

/-! ### SET MULTIPLE MODE (R252) -/

theorem multipleArgOk_eq_true_iff (d : Descriptor) (m : Byte) :
    multipleArgOk d m = true ↔ m ≠ 0#8 ∧ d.hasMultipleCmd = true ∧ m.toNat ≤ d.maxMultipleSectorSize.toNat := by
  simp [multipleArgOk, and_assoc]

section

variable {s : State} {m : Byte}

theorem setMultipleCommand_of_interrupt_mode (hi : s.identified = true) (ht : s.tag = .none)
    (he : s.intEnabled = true) : setMultipleCommand m s = (.protocolViolation, s) := by
  rw [setMultipleCommand, commandGuard_of_admitted hi ht, andThen_ok, if_pos he]

theorem setMultipleCommand_of_bad_arg (hi : s.identified = true) (ht : s.tag = .none) (he : s.intEnabled = false)
    (hm : multipleArgOk s.desc m = false) : setMultipleCommand m s = (.invalidArgument, s) := by
  rw [setMultipleCommand, commandGuard_of_admitted hi ht, andThen_ok, if_neg (ne_true_of_eq_false he), hm]
  rfl

/-- Admitted, the operation is the ready check and then the command. -/
theorem setMultipleCommand_of_admitted (hi : s.identified = true) (ht : s.tag = .none) (he : s.intEnabled = false)
    (hm : multipleArgOk s.desc m = true) :
    setMultipleCommand m s = OpOut.andThen (checkReady s) fun u =>
      OpOut.andThen (issueCommand .setMultipleMode (portWrite8 .count m u)) fun u =>
        OpOut.andThen (pollFinish u) fun u => (.ok, u.setCurrentMultiple m) := by
  rw [setMultipleCommand, commandGuard_of_admitted hi ht, andThen_ok, if_neg (ne_true_of_eq_false he), hm]
  rfl

/-- The events of SET MULTIPLE MODE up to its immediate error check. -/
def State.multipleSent (s : State) (m : Byte) (k a b c : Nat) : List Event :=
  (s.after k).readyEvents a b c ++ .portWrite8 (portAddr s.cfg .count) m ::
    s.issueEvents .setMultipleMode (k + a + b + c + 3)

/-- Ready, the operation is the block size, the command byte, and then the poll and the finish check. -/
theorem setMultipleCommand_ranIo_of_readyMeets {k a b c : Nat} {e : List Event} (hi : s.identified = true)
    (ht : s.tag = .none) (he : s.intEnabled = false) (hm : multipleArgOk s.desc m = true)
    (h : (s.after k).readyMeets a b c) :
    setMultipleCommand m (s.ranIo k e) =
      OpOut.andThen (issueCommand .setMultipleMode (s.ranIo (k + a + b + c + 3)
        (e ++ (s.after k).readyEvents a b c ++ [.portWrite8 (portAddr s.cfg .count) m]))) fun u =>
        OpOut.andThen (pollFinish u) fun u => (.ok, u.setCurrentMultiple m) := by
  rw [setMultipleCommand_of_admitted (s := s.ranIo k e) hi ht he hm, checkReady_ranIo_of_readyMeets h, andThen_ok,
    portWrite8_ranIo]

theorem multipleSent_append (s : State) (m : Byte) (k a b c : Nat) (e : List Event) :
    e ++ (s.after k).readyEvents a b c ++ [.portWrite8 (portAddr s.cfg .count) m] ++
      s.issueEvents .setMultipleMode (k + a + b + c + 3) = e ++ s.multipleSent m k a b c := by
  simp [State.multipleSent]

section

variable {k a b c p : Nat} {e : List Event} (hi : s.identified = true) (ht : s.tag = .none)
  (he : s.intEnabled = false) (hm : multipleArgOk s.desc m = true) (h : (s.after k).readyMeets a b c)

include hi ht he hm h

theorem setMultipleCommand_ranIo_of_error (herr : ¬ s.issueMeets (k + a + b + c + 3)) :
    setMultipleCommand m (s.ranIo k e) =
      (.deviceError, (s.ranIo (k + a + b + c + 3 + s.cfg.wait400Reads + 1)
        (e ++ s.multipleSent m k a b c)).endCommand) := by
  rw [setMultipleCommand_ranIo_of_readyMeets hi ht he hm h, issueCommand_ranIo_of_error herr, multipleSent_append]
  rfl

/-- A block size whose command byte is accepted is recorded where the poll and the finish check succeed. -/
theorem setMultipleCommand_ranIo_of_issueMeets (hissue : s.issueMeets (k + a + b + c + 3)) :
    setMultipleCommand m (s.ranIo k e) =
      OpOut.andThen (pollFinish ((s.setTag .setMultiple).ranIo (k + a + b + c + 3 + s.cfg.wait400Reads + 1)
        (e ++ s.multipleSent m k a b c))) fun u => (.ok, u.setCurrentMultiple m) := by
  rw [setMultipleCommand_ranIo_of_readyMeets hi ht he hm h, issueCommand_ranIo_of_issueMeets hissue,
    multipleSent_append]
  rfl

end

/-- SET MULTIPLE MODE that runs to an idle status: the last byte says whether the block size is recorded. -/
theorem setMultipleCommand_ranIo_of_multipleMeets {k a b c p : Nat} {e : List Event} (hi : s.identified = true)
    (ht : s.tag = .none) (he : s.intEnabled = false) (hm : multipleArgOk s.desc m = true)
    (h : s.multipleMeets k a b c p) :
    setMultipleCommand m (s.ranIo k e) =
      let u := (s.ranIo (k + a + b + c + s.cfg.wait400Reads + p + 6)
        (e ++ s.multipleEvents m k a b c p)).endCommand
      if statusFailed (s.nextByte (k + a + b + c + s.cfg.wait400Reads + p + 5)) then (.deviceError, u)
      else (.ok, u.setCurrentMultiple m) := by
  obtain ⟨hready, hissue, hfinish⟩ := h
  have hstart : k + a + b + c + 3 + s.cfg.wait400Reads + 1 = k + a + b + c + s.cfg.wait400Reads + 4 := by omega
  have hlast : k + a + b + c + s.cfg.wait400Reads + 4 + p + 1 = k + a + b + c + s.cfg.wait400Reads + p + 5 := by omega
  have hcount : k + a + b + c + s.cfg.wait400Reads + 4 + p + 2 = k + a + b + c + s.cfg.wait400Reads + p + 6 := by omega
  have hevents : e ++ s.multipleSent m k a b c ++ s.finishEvents (k + a + b + c + s.cfg.wait400Reads + 4) p =
      e ++ s.multipleEvents m k a b c p := by
    simp [State.multipleSent, State.multipleEvents]
  have hfin : pollFinish ((s.setTag .setMultiple).ranIo (k + a + b + c + s.cfg.wait400Reads + 4)
      (e ++ s.multipleSent m k a b c)) =
      (failedOr (s.nextByte (k + a + b + c + s.cfg.wait400Reads + p + 5)) .ok,
        (s.ranIo (k + a + b + c + s.cfg.wait400Reads + p + 6) (e ++ s.multipleEvents m k a b c p)).endCommand) := by
    rw [← hlast, ← hcount, ← hevents]
    exact pollFinish_of_finishMeets (s := s.setTag .setMultiple) hfinish
  rw [setMultipleCommand_ranIo_of_issueMeets hi ht he hm hready hissue, hstart, hfin, failedOr]
  dsimp only
  split <;> rfl

end

/-! ### What a command without data leaves unchanged -/

/-- `t` is `s` but for the device, the trace, the tag and the cursor. -/
def CommandRun (s t : State) : Prop :=
  ∃ tg cp rm sc d tr, t = { s with tag := tg, cursorPtr := cp, remaining := rm, script := sc, draws := d, trace := tr }

theorem CommandRun.refl (s : State) : CommandRun s s := ⟨_, _, _, _, _, _, rfl⟩

theorem CommandRun.trans {s t u : State} (h₁ : CommandRun s t) (h₂ : CommandRun t u) : CommandRun s u := by
  obtain ⟨_, _, _, _, _, _, rfl⟩ := h₁
  obtain ⟨_, _, _, _, _, _, rfl⟩ := h₂
  exact ⟨_, _, _, _, _, _, rfl⟩

theorem IoRun.commandRun {s t : State} (h : IoRun s t) : CommandRun s t := by
  obtain ⟨_, _, _, rfl⟩ := h
  exact ⟨_, _, _, _, _, _, rfl⟩

theorem CommandRun.endCommand {s t : State} (h : CommandRun s t) : CommandRun s t.endCommand := by
  obtain ⟨_, _, _, _, _, _, rfl⟩ := h
  exact ⟨_, _, _, _, _, _, rfl⟩

theorem CommandRun.desc_eq {s t : State} (h : CommandRun s t) : t.desc = s.desc := by
  obtain ⟨_, _, _, _, _, _, rfl⟩ := h
  rfl

theorem CommandRun.cfg_eq {s t : State} (h : CommandRun s t) : t.cfg = s.cfg := by
  obtain ⟨_, _, _, _, _, _, rfl⟩ := h
  rfl

theorem CommandRun.identified_eq {s t : State} (h : CommandRun s t) : t.identified = s.identified := by
  obtain ⟨_, _, _, _, _, _, rfl⟩ := h
  rfl

theorem CommandRun.intEnabled_eq {s t : State} (h : CommandRun s t) : t.intEnabled = s.intEnabled := by
  obtain ⟨_, _, _, _, _, _, rfl⟩ := h
  rfl

theorem CommandRun.selectedDrive_eq {s t : State} (h : CommandRun s t) : t.selectedDrive = s.selectedDrive := by
  obtain ⟨_, _, _, _, _, _, rfl⟩ := h
  rfl

theorem immediateErrorCheck_commandRun (s : State) : CommandRun s (immediateErrorCheck s).2 := by
  obtain ⟨_, h⟩ | ⟨_, u, h, he⟩ := immediateErrorCheck_cases s
  · exact h.commandRun
  · rw [he]
    exact h.commandRun.endCommand

theorem issueCommand_commandRun (op : AtaOpcode) (s : State) : CommandRun s (issueCommand op s).2 :=
  .trans ⟨_, _, _, _, _, _, rfl⟩ (immediateErrorCheck_commandRun _)

theorem finishCheck_commandRun (s : State) : CommandRun s (finishCheck s).2 := by
  obtain ⟨_, u, h, he⟩ | ⟨_, h⟩ := finishCheck_cases s
  · rw [he]
    exact h.commandRun.endCommand
  · exact h.commandRun

theorem CommandRun.andThen {s : State} {r : OpOut} {k : State → OpOut} (h : CommandRun s r.2)
    (hk : ∀ u, CommandRun u (k u).2) : CommandRun s (OpOut.andThen r k).2 := by
  obtain ⟨_, he⟩ | ⟨_, he⟩ := andThen_cases r k
  · rwa [he]
  · rw [he]
    exact h.trans (hk _)

theorem pollFinish_commandRun (s : State) : CommandRun s (pollFinish s).2 :=
  .andThen (pollBusy_ioRun _ _).commandRun finishCheck_commandRun

/-- What SET MULTIPLE MODE can do: on success it has ended the command and recorded the block size, and on a failure the
descriptor is what it was. -/
theorem setMultipleCommand_cases (m : Byte) (s : State) :
    ((setMultipleCommand m s).1 ≠ .ok ∧ CommandRun s (setMultipleCommand m s).2) ∨
    ((setMultipleCommand m s).1 = .ok ∧ s.identified = true ∧ multipleArgOk s.desc m = true ∧
      ∃ u, CommandRun s u ∧ u.tag = .none ∧ (setMultipleCommand m s).2 = u.setCurrentMultiple m) := by
  by_cases hguard : s.identified = false ∨ s.tag ≠ .none
  · rw [setMultipleCommand_of_refused hguard]
    exact .inl ⟨nofun, .refl s⟩
  · obtain ⟨hi, ht⟩ := not_or.1 hguard
    rw [Bool.not_eq_false] at hi
    rw [not_not] at ht
    cases he : s.intEnabled with
    | true =>
      rw [setMultipleCommand_of_interrupt_mode hi ht he]
      exact .inl ⟨nofun, .refl s⟩
    | false =>
      by_cases hm : multipleArgOk s.desc m = true
      case neg =>
        rw [Bool.not_eq_true] at hm
        rw [setMultipleCommand_of_bad_arg hi ht he hm]
        exact .inl ⟨nofun, .refl s⟩
      case pos =>
        rw [setMultipleCommand_of_admitted hi ht he hm]
        have hr := (checkReady_ioRun s).commandRun
        obtain ⟨hne, h⟩ | ⟨_, h⟩ := andThen_cases (checkReady s) _ <;> rw [h]
        · exact .inl ⟨hne, hr⟩
        have hc := hr.trans ((portWrite8_ioRun .count m _).commandRun.trans (issueCommand_commandRun .setMultipleMode _))
        obtain ⟨hne, h⟩ | ⟨_, h⟩ := andThen_cases
          (issueCommand .setMultipleMode (portWrite8 .count m (checkReady s).2)) _ <;> rw [h]
        · exact .inl ⟨hne, hc⟩
        have hf := hc.trans (pollFinish_commandRun _)
        obtain ⟨hne, h⟩ | ⟨hok, h⟩ := andThen_cases
          (pollFinish (issueCommand .setMultipleMode (portWrite8 .count m (checkReady s).2)).2) _ <;> rw [h]
        · exact .inl ⟨hne, hf⟩
        · exact .inr ⟨rfl, hi, hm, _, hf, pollFinish_ok hok, rfl⟩

/-! ### The statements -/

theorem immediateError_iff (b : Byte) : immediateError b = true ↔ b.getLsbD 7 = false ∧ b.getLsbD 0 = true := by
  simp [immediateError, statusBsy, statusErr]

theorem statusIdle_iff (b : Byte) : statusIdle b = true ↔ b.getLsbD 7 = false ∧ b.getLsbD 3 = false := by
  simp [statusIdle, statusBsy, statusDrq]

/-- Settles O48: both checks from the first port read on, their tests spelled by bits. -/
theorem issueAndFinishChecks : Obligations.IssueAndFinishChecks := by
  intro s w
  have hissue := immediateErrorCheck_ranIo s 0 []
  have hfinish := finishCheck_ranIo s 0 []
  simp only [State.ranIo_zero, List.nil_append, Nat.zero_add, immediateError_iff, statusIdle_iff] at hissue hfinish
  exact ⟨hissue, hfinish⟩

theorem exec_flush {i : Instr} (hi : i = .flush ∨ i = .flushCache) (s : State) :
    exec i s = finish (flushCommand s) := by
  obtain rfl | rfl := hi <;> rfl

theorem exec_setMultiple {i : Instr} {m : Byte} (hi : i = .setMultipleMode m ∨ i = .setMultipleModeCommand m)
    (s : State) : exec i s = finish (setMultipleCommand m s) := by
  obtain rfl | rfl := hi <;> rfl

/-- Settles O49: the command byte decides first, then the mode, then the poll and the finish check. -/
theorem flushCompletes : Obligations.FlushCompletes := by
  intro i s a b c hinstr hi ht k j n sent hready
  rw [exec_flush hinstr]
  refine ⟨fun herr => finish_eq_next ?_, fun hissue => ?_⟩
  · rw [flushCommand_of_readyMeets hi ht hready, issueCommand_ranIo_of_error herr]
    rfl
  · rw [flushCommand_of_issueMeets hi ht hready hissue]
    refine ⟨fun he => finish_eq_next (if_pos he), fun he hm => finish_eq_next ?_, fun p he hp hm hidle => finish_eq_next ?_,
      fun p he hfin => finish_eq_next ?_⟩ <;> refine (if_neg (ne_true_of_eq_false he)).trans ?_
    · exact pollFinish_ranIo_of_waitMisses (s := s.setTag .flushCache) hm
    · exact pollFinish_of_not_idle (s := s.setTag .flushCache) hp hm hidle
    · exact pollFinish_of_finishMeets (s := s.setTag .flushCache) hfin

/-- Settles O50: `setMultipleCommand_ranIo_of_multipleMeets` from the first port read on. -/
theorem setMultipleCompletes : Obligations.SetMultipleCompletes := by
  intro i m s a b c p hinstr hi ht he hm hmul hmax hmeets j u
  have harg : multipleArgOk s.desc m = true := (multipleArgOk_eq_true_iff _ _).2 ⟨hm, hmul, hmax⟩
  have hrun := setMultipleCommand_ranIo_of_multipleMeets (e := []) hi ht he harg hmeets
  simp only [State.ranIo_zero, List.nil_append, Nat.zero_add] at hrun
  rw [exec_setMultiple hinstr, hrun]
  simp only [j, u]
  split <;> rfl

/-- Settles O51: the refusals and the failures one by one, and `setMultipleCommand_cases` for the block size. -/
theorem setMultipleRecordsOnSuccessOnly : Obligations.SetMultipleRecordsOnSuccessOnly := by
  intro i m s hinstr
  rw [exec_setMultiple hinstr]
  refine ⟨fun hi ht he => finish_eq_next (setMultipleCommand_of_interrupt_mode hi ht he),
    fun hi ht he hbad => finish_eq_next (setMultipleCommand_of_bad_arg hi ht he ?_),
    fun hi ht he hm hmul hmax => ?_, ?_⟩
  · rw [← Bool.not_eq_true, multipleArgOk_eq_true_iff]
    rintro ⟨hm, hmul, hmax⟩
    obtain h0 | hno | hover := hbad
    · exact hm h0
    · exact Bool.false_ne_true (hno.symm.trans hmul)
    · exact hover.not_ge hmax
  · have harg : multipleArgOk s.desc m = true := (multipleArgOk_eq_true_iff _ _).2 ⟨hm, hmul, hmax⟩
    refine ⟨fun t ht' => finish_eq_next ?_, ?_⟩
    · rw [setMultipleCommand_of_admitted hi ht he harg, ht', andThen_timeout]
    intro a b c hready k j n sent
    have hready0 : (s.after 0).readyMeets a b c := by rwa [State.after_zero]
    have herr := setMultipleCommand_ranIo_of_error (e := []) hi ht he harg hready0
    have hmeets := setMultipleCommand_ranIo_of_issueMeets (e := []) hi ht he harg hready0
    simp only [State.ranIo_zero, List.nil_append, Nat.zero_add, State.multipleSent, State.after_zero] at herr hmeets
    refine ⟨fun h => finish_eq_next (herr h), fun h hmiss => ?_, fun p h hp hm' hidle => ?_⟩
    · rw [hmeets h, pollFinish_ranIo_of_waitMisses (s := s.setTag .setMultiple) hmiss]
      rfl
    · rw [hmeets h, pollFinish_of_not_idle (s := s.setTag .setMultiple) hp hm' hidle]
      rfl
  · refine ⟨_, _, rfl, rfl, ?_⟩
    obtain ⟨hne, hrun⟩ | ⟨hok, _, _, u, hrun, htag, he⟩ := setMultipleCommand_cases m s
    · exact ⟨fun hok => absurd hok hne, fun _ => hrun.desc_eq⟩
    · refine ⟨fun _ => ?_, fun hne => absurd hok hne⟩
      rw [he]
      exact ⟨congrArg (fun d : Descriptor => { d with currentMultipleSectorSize := m }) hrun.desc_eq, htag⟩

end Sys2Proof.Machine

/-! Proofs about the IDENTIFY command (spec/41_identify.md R181, R182): its issue, its polled data phase and its end as runs
`State.ranIo` from any place of the device's answers, and the exits between them. -/

namespace Sys2Proof.Machine

/-! ### The issue (R181) -/

section

variable {s : State} {k : Nat} {e : List Event}

theorem identifyCommand_ranIo (ht : s.tag = .none) :
    identifyCommand (s.ranIo k e) =
      if (!statusIdle (s.nextByte k) || !statusDrdy (s.nextByte k)) = true then
        (.protocolViolation, s.ranIo (k + 1) (e ++ [s.altRead k]))
      else OpOut.andThen (issueCommand .identify (s.ranIo (k + 1) (e ++ [s.altRead k])))
        fun u => if u.intEnabled then (.ok, u) else identifyPolled u := by
  rw [identifyCommand, State.ranIo_tag, if_neg (not_not_intro ht), altStatusRead_ranIo]
  simp only [bsy_or_drq_eq_not_idle]

theorem identifyCommand_ranIo_of_not_quiescent (ht : s.tag = .none)
    (h : statusIdle (s.nextByte k) = false ∨ statusDrdy (s.nextByte k) = false) :
    identifyCommand (s.ranIo k e) = (.protocolViolation, s.ranIo (k + 1) (e ++ [s.altRead k])) := by
  rw [identifyCommand_ranIo ht, if_pos (by simpa using h)]

/-- On a quiescent device the command byte is written. -/
theorem identifyCommand_ranIo_of_quiescent (ht : s.tag = .none) (hidle : statusIdle (s.nextByte k) = true)
    (hdrdy : statusDrdy (s.nextByte k) = true) :
    identifyCommand (s.ranIo k e) =
      OpOut.andThen (issueCommand .identify (s.ranIo (k + 1) (e ++ [s.altRead k])))
        fun u => if u.intEnabled then (.ok, u) else identifyPolled u := by
  rw [identifyCommand_ranIo ht, if_neg (by simp [hidle, hdrdy])]

theorem identifyIssueEvents_append (s : State) (k : Nat) (e : List Event) :
    e ++ [s.altRead k] ++ s.issueEvents .identify (k + 1) = e ++ s.identifyIssueEvents k := by
  rw [State.identifyIssueEvents, List.append_assoc, List.singleton_append]

theorem identifyCommand_ranIo_of_error (ht : s.tag = .none) (hidle : statusIdle (s.nextByte k) = true)
    (hdrdy : statusDrdy (s.nextByte k) = true) (herr : ¬ s.issueMeets (k + 1)) :
    identifyCommand (s.ranIo k e) =
      (.deviceError, (s.ranIo (k + s.cfg.wait400Reads + 2) (e ++ s.identifyIssueEvents k)).endCommand) := by
  have hcount : k + 1 + s.cfg.wait400Reads + 1 = k + s.cfg.wait400Reads + 2 := by omega
  rw [identifyCommand_ranIo_of_quiescent ht hidle hdrdy, issueCommand_ranIo_of_error herr, identifyIssueEvents_append,
    hcount]
  rfl

/-- An accepted command byte: in interrupt mode the operation is over, in polled mode the data phase follows. -/
theorem identifyCommand_ranIo_of_issueMeets (ht : s.tag = .none) (h : s.identifyIssueMeets k) :
    identifyCommand (s.ranIo k e) =
      let u := (s.setTag .identify).ranIo (k + s.cfg.wait400Reads + 2) (e ++ s.identifyIssueEvents k)
      if s.intEnabled then (.ok, u) else identifyPolled u := by
  obtain ⟨⟨hidle, hdrdy⟩, hissue⟩ := h
  have hcount : k + 1 + s.cfg.wait400Reads + 1 = k + s.cfg.wait400Reads + 2 := by omega
  rw [identifyCommand_ranIo_of_quiescent ht hidle hdrdy, issueCommand_ranIo_of_issueMeets hissue,
    identifyIssueEvents_append, hcount]
  rfl

end

/-! ### The block with a parsed answer (R182, R189) -/

/-- The data phase fills the buffer and touches nothing else but the descriptor and `identified`. -/
theorem State.parsedInto_eq (s : State) (w : IdentBuf) :
    ∃ d b, s.parsedInto w = { s with desc := d, identified := b, identBuf := w } := by
  unfold State.parsedInto
  split
  · exact ⟨_, _, rfl⟩
  · exact ⟨_, _, rfl⟩

theorem State.parsedInto_cfg (s : State) (w : IdentBuf) : (s.parsedInto w).cfg = s.cfg := by
  unfold State.parsedInto
  split <;> rfl

theorem State.parsedInto_ranIo (s : State) (w : IdentBuf) (k : Nat) (e : List Event) :
    (s.ranIo k e).parsedInto w = (s.parsedInto w).ranIo k e := by
  unfold State.parsedInto
  split <;> rfl

theorem State.parsedInto_setTag (s : State) (w : IdentBuf) (t : Tag) :
    (s.setTag t).parsedInto w = (s.parsedInto w).setTag t := by
  unfold State.parsedInto
  split <;> rfl

/-! ### The end after the data phase (R181) -/

/-- The code of an IDENTIFY: a failed parse is reported before the finish check. -/
def identifyCode (w : IdentBuf) (c : ResultCode) : ResultCode :=
  if parseIdentify w = none then .capabilityAbsent else c

/-- The code of the data phase lets the finish check decide exactly where the parse succeeded. -/
theorem identifyCode_eq (w : IdentBuf) (c : ResultCode) :
    (if (if parseIdentify w = none then ResultCode.capabilityAbsent else .ok) = .ok then c
      else if parseIdentify w = none then .capabilityAbsent else .ok) = identifyCode w c := by
  unfold identifyCode
  split <;> simp

section

variable {s : State} {w : IdentBuf} {k q : Nat} {e : List Event}

theorem identifyFinish_ranIo_of_waitMisses (c : ResultCode)
    (h : s.waitMisses 7 false (k + s.cfg.wait400Reads) s.cfg.pollBudget) :
    identifyFinish c (s.ranIo k e) =
      (.timeout, s.ranIo (k + s.cfg.wait400Reads + s.cfg.pollBudget)
        (e ++ s.altReads k s.cfg.wait400Reads ++ s.attempts (k + s.cfg.wait400Reads) s.cfg.pollBudget)) := by
  rw [identifyFinish, wait400_ranIo]
  exact congrArg (OpOut.andThen · _) (pollBusy_ranIo_of_waitMisses h)

theorem identifyFinish_ranIo_of_waitMeets (c : ResultCode) (hq : q < s.cfg.pollBudget)
    (h : s.waitMeets 7 false (k + s.cfg.wait400Reads) q) :
    identifyFinish c (s.ranIo k e) =
      let b := s.nextByte (k + s.cfg.wait400Reads + q + 1)
      let u := s.ranIo (k + s.cfg.wait400Reads + q + 2)
        (e ++ s.altReads k s.cfg.wait400Reads ++ s.finishEvents (k + s.cfg.wait400Reads) q)
      if statusIdle b then (if c = .ok then failedOr b .ok else c, u.endCommand)
      else (if c = .ok then .protocolViolation else c, u) := by
  have hevents : e ++ s.altReads k s.cfg.wait400Reads ++ s.finishEvents (k + s.cfg.wait400Reads) q =
      e ++ s.altReads k s.cfg.wait400Reads ++ s.attempts (k + s.cfg.wait400Reads) (q + 1) ++
        [s.altRead (k + s.cfg.wait400Reads + q + 1)] := by
    rw [State.finishEvents, ← List.append_assoc]
  rw [identifyFinish, wait400_ranIo]
  refine (congrArg (OpOut.andThen · _) (pollBusy_ranIo_of_waitMeets hq h)).trans ?_
  rw [andThen_ok, finishCheck_ranIo, hevents]
  dsimp only
  cases statusIdle (s.nextByte (k + s.cfg.wait400Reads + q + 1)) <;> rfl

end

/-! ### The polled data phase (R181) -/

section

variable {s : State} {k p : Nat} {e : List Event}

theorem identifyPolled_ranIo_of_waitMisses (h : s.waitMisses 7 false k s.cfg.pollBudget) :
    identifyPolled (s.ranIo k e) =
      (.timeout, s.ranIo (k + s.cfg.pollBudget) (e ++ s.attempts k s.cfg.pollBudget)) := by
  rw [identifyPolled, State.ranIo_cfg, pollBusy_ranIo_of_waitMisses h, andThen_timeout]

/-- Past the first poll, the data check decides whether the words are read. -/
theorem identifyPolled_ranIo_of_waitMeets (hp : p < s.cfg.pollBudget) (h : s.waitMeets 7 false k p) :
    identifyPolled (s.ranIo k e) =
      let r := identifyData (s.ranIo (k + p + 1) (e ++ s.attempts k (p + 1)))
      if r.1 = .busyRetry then r else if r.2.tag = .none then r else identifyFinish r.1 r.2 := by
  rw [identifyPolled, State.ranIo_cfg, pollBusy_ranIo_of_waitMeets hp h, andThen_ok]

theorem identifyPolled_ranIo_of_busy (hp : p < s.cfg.pollBudget) (h : s.waitMeets 7 false k p)
    (hb : statusBsy (s.nextByte (k + p + 1)) = true) :
    identifyPolled (s.ranIo k e) =
      (.busyRetry, s.ranIo (k + p + 2) (e ++ s.attempts k (p + 1) ++ [s.altRead (k + p + 1)])) := by
  rw [identifyPolled_ranIo_of_waitMeets hp h, identifyData_ranIo_of_busy hb]
  rfl

theorem identifyPolled_ranIo_of_no_drq (hp : p < s.cfg.pollBudget) (h : s.waitMeets 7 false k p)
    (hb : statusBsy (s.nextByte (k + p + 1)) = false) (hd : statusDrq (s.nextByte (k + p + 1)) = false) :
    identifyPolled (s.ranIo k e) =
      (failedOr (s.nextByte (k + p + 1)) .protocolViolation,
        (s.ranIo (k + p + 2) (e ++ s.attempts k (p + 1) ++ [s.altRead (k + p + 1)])).endCommand) := by
  rw [identifyPolled_ranIo_of_waitMeets hp h, identifyData_ranIo_of_no_drq hb hd]
  exact (ite_congr rfl (fun _ => rfl) fun _ => if_pos rfl).trans (ite_self _)

/-- A data phase that moves the words leaves the tag, and the second poll follows. -/
theorem identifyPolled_ranIo_of_drq (ht : s.tag ≠ .none) (hp : p < s.cfg.pollBudget) (h : s.waitMeets 7 false k p)
    (hb : statusBsy (s.nextByte (k + p + 1)) = false) (hd : statusDrq (s.nextByte (k + p + 1)) = true) :
    identifyPolled (s.ranIo k e) =
      let w := identBufOf (s.nextWords (k + p + 2) 256)
      identifyFinish (if parseIdentify w = none then .capabilityAbsent else .ok)
        ((s.parsedInto w).ranIo (k + p + 258)
          (e ++ s.attempts k (p + 1) ++ [s.altRead (k + p + 1)] ++ s.dataReads (k + p + 2) 256)) := by
  have hcode : ∀ w, (if parseIdentify w = none then ResultCode.capabilityAbsent else .ok) ≠ .busyRetry := by
    intro w
    split <;> exact nofun
  have htag : ∀ w n evs, ((s.parsedInto w).ranIo n evs).tag ≠ .none := by
    intro w n evs
    obtain ⟨d, b, heq⟩ := s.parsedInto_eq w
    rw [heq]
    exact ht
  rw [identifyPolled_ranIo_of_waitMeets hp h, identifyData_ranIo_of_drq hb hd]
  simp only [State.parsedInto_ranIo, if_neg (hcode _), if_neg (htag _ _ _), List.append_assoc, List.singleton_append]

end

/-! ### The whole polled command (R181) -/

section

variable {s : State} {k p q : Nat} {e : List Event} (ht : s.tag = .none) (hi : s.intEnabled = false)

include ht hi

/-- In polled mode an accepted command byte starts the data phase. -/
theorem identifyCommand_ranIo_of_polled (h : s.identifyIssueMeets k) :
    identifyCommand (s.ranIo k e) =
      identifyPolled ((s.setTag .identify).ranIo (k + s.cfg.wait400Reads + 2) (e ++ s.identifyIssueEvents k)) :=
  (identifyCommand_ranIo_of_issueMeets ht h).trans (if_neg (ne_true_of_eq_false hi))

theorem identifyCommand_ranIo_of_first_waitMisses (h : s.identifyIssueMeets k)
    (hm : s.waitMisses 7 false (k + s.cfg.wait400Reads + 2) s.cfg.pollBudget) :
    identifyCommand (s.ranIo k e) =
      (.timeout, (s.ranIo (k + s.cfg.wait400Reads + 2 + s.cfg.pollBudget)
        (e ++ (s.identifyIssueEvents k ++ s.attempts (k + s.cfg.wait400Reads + 2) s.cfg.pollBudget))).setTag
          .identify) := by
  rw [identifyCommand_ranIo_of_polled ht hi h, ← List.append_assoc]
  exact identifyPolled_ranIo_of_waitMisses (s := s.setTag .identify) hm

theorem identifyCommand_ranIo_of_busy (h : s.identifyPollMeets k p)
    (hb : statusBsy (s.nextByte (k + s.cfg.wait400Reads + p + 3)) = true) :
    identifyCommand (s.ranIo k e) =
      (.busyRetry, (s.ranIo (k + s.cfg.wait400Reads + p + 4) (e ++ s.identifyPollEvents k p)).setTag .identify) := by
  obtain ⟨hissue, hp, hm⟩ := h
  have hcheck : k + s.cfg.wait400Reads + 2 + p + 1 = k + s.cfg.wait400Reads + p + 3 := by omega
  have hnext : k + s.cfg.wait400Reads + 2 + p + 2 = k + s.cfg.wait400Reads + p + 4 := by omega
  have hrun := identifyPolled_ranIo_of_busy (s := s.setTag .identify) (e := e ++ s.identifyIssueEvents k) hp hm
    (hcheck ▸ hb)
  rw [identifyCommand_ranIo_of_polled ht hi hissue, hrun, hcheck, hnext]
  simp only [State.identifyPollEvents, List.append_assoc]
  rfl

theorem identifyCommand_ranIo_of_no_drq (h : s.identifyPollMeets k p)
    (hb : statusBsy (s.nextByte (k + s.cfg.wait400Reads + p + 3)) = false)
    (hd : statusDrq (s.nextByte (k + s.cfg.wait400Reads + p + 3)) = false) :
    identifyCommand (s.ranIo k e) =
      (failedOr (s.nextByte (k + s.cfg.wait400Reads + p + 3)) .protocolViolation,
        (s.ranIo (k + s.cfg.wait400Reads + p + 4) (e ++ s.identifyPollEvents k p)).endCommand) := by
  obtain ⟨hissue, hp, hm⟩ := h
  have hcheck : k + s.cfg.wait400Reads + 2 + p + 1 = k + s.cfg.wait400Reads + p + 3 := by omega
  have hnext : k + s.cfg.wait400Reads + 2 + p + 2 = k + s.cfg.wait400Reads + p + 4 := by omega
  have hrun := identifyPolled_ranIo_of_no_drq (s := s.setTag .identify) (e := e ++ s.identifyIssueEvents k) hp hm
    (hcheck ▸ hb) (hcheck ▸ hd)
  rw [identifyCommand_ranIo_of_polled ht hi hissue, hrun, hcheck, hnext]
  simp only [State.identifyPollEvents, List.append_assoc]
  rfl

/-- A command that moves its words ends as its second poll and its finish check do. -/
theorem identifyCommand_ranIo_of_identifyDataMeets (h : s.identifyDataMeets k p) :
    identifyCommand (s.ranIo k e) =
      identifyFinish (if parseIdentify (s.identifyWords k p) = none then .capabilityAbsent else .ok)
        ((((s.setTag .identify).parsedInto (s.identifyWords k p))).ranIo (k + s.cfg.wait400Reads + p + 260)
          (e ++ (s.identifyPollEvents k p ++ s.dataReads (k + s.cfg.wait400Reads + p + 4) 256))) := by
  obtain ⟨⟨hissue, hp, hm⟩, hb, hd⟩ := h
  have hcheck : k + s.cfg.wait400Reads + 2 + p + 1 = k + s.cfg.wait400Reads + p + 3 := by omega
  have hwords : k + s.cfg.wait400Reads + 2 + p + 2 = k + s.cfg.wait400Reads + p + 4 := by omega
  have hend : k + s.cfg.wait400Reads + 2 + p + 258 = k + s.cfg.wait400Reads + p + 260 := by omega
  have hrun := identifyPolled_ranIo_of_drq (s := s.setTag .identify) (e := e ++ s.identifyIssueEvents k)
    (show Tag.identify ≠ .none by decide) hp hm (hcheck ▸ hb) (hcheck ▸ hd)
  rw [hcheck, hwords, hend] at hrun
  rw [identifyCommand_ranIo_of_polled ht hi hissue, hrun]
  simp only [State.identifyPollEvents, List.append_assoc]
  rfl

/-- The second poll uses its budget: the words are in, the tag stays. -/
theorem identifyCommand_ranIo_of_second_waitMisses (h : s.identifyDataMeets k p)
    (hm : s.waitMisses 7 false (k + 2 * s.cfg.wait400Reads + p + 260) s.cfg.pollBudget) :
    identifyCommand (s.ranIo k e) =
      (.timeout, ((s.ranIo (k + 2 * s.cfg.wait400Reads + p + 260 + s.cfg.pollBudget)
        (e ++ (s.identifyDataEvents k p ++ s.attempts (k + 2 * s.cfg.wait400Reads + p + 260)
          s.cfg.pollBudget))).parsedInto (s.identifyWords k p)).setTag .identify) := by
  have hpoll : k + s.cfg.wait400Reads + p + 260 + s.cfg.wait400Reads = k + 2 * s.cfg.wait400Reads + p + 260 := by omega
  have hevents : e ++ (s.identifyDataEvents k p ++ s.attempts (k + 2 * s.cfg.wait400Reads + p + 260)
      s.cfg.pollBudget) = e ++ (s.identifyPollEvents k p ++ s.dataReads (k + s.cfg.wait400Reads + p + 4) 256) ++
      s.altReads (k + s.cfg.wait400Reads + p + 260) s.cfg.wait400Reads ++
      s.attempts (k + 2 * s.cfg.wait400Reads + p + 260) s.cfg.pollBudget := by
    simp only [State.identifyDataEvents, List.append_assoc]
  rw [identifyCommand_ranIo_of_identifyDataMeets ht hi h, State.parsedInto_ranIo, hevents, State.parsedInto_setTag]
  obtain ⟨d, b, heq⟩ := s.parsedInto_eq (s.identifyWords k p)
  rw [heq]
  rw [← hpoll] at hm ⊢
  exact identifyFinish_ranIo_of_waitMisses
    (s := { s with desc := d, identified := b, identBuf := s.identifyWords k p, tag := .identify }) _ hm

/-- The second poll ends: the finish check decides whether the command is over, and the parse comes before its code. -/
theorem identifyCommand_ranIo_of_second_waitMeets (h : s.identifyDataMeets k p) (hq : q < s.cfg.pollBudget)
    (hm : s.waitMeets 7 false (k + 2 * s.cfg.wait400Reads + p + 260) q) :
    identifyCommand (s.ranIo k e) =
      let b := s.nextByte (k + 2 * s.cfg.wait400Reads + p + q + 261)
      let w := s.identifyWords k p
      let u := (s.ranIo (k + 2 * s.cfg.wait400Reads + p + q + 262) (e ++ s.identifyEvents k p q)).parsedInto w
      if statusIdle b then (identifyCode w (failedOr b .ok), u.endCommand)
      else (identifyCode w .protocolViolation, u.setTag .identify) := by
  have hpoll : k + s.cfg.wait400Reads + p + 260 + s.cfg.wait400Reads = k + 2 * s.cfg.wait400Reads + p + 260 := by omega
  have hlast : k + 2 * s.cfg.wait400Reads + p + 260 + q + 1 = k + 2 * s.cfg.wait400Reads + p + q + 261 := by omega
  have hcount : k + 2 * s.cfg.wait400Reads + p + 260 + q + 2 = k + 2 * s.cfg.wait400Reads + p + q + 262 := by omega
  have hevents : e ++ s.identifyEvents k p q =
      e ++ (s.identifyPollEvents k p ++ s.dataReads (k + s.cfg.wait400Reads + p + 4) 256) ++
      s.altReads (k + s.cfg.wait400Reads + p + 260) s.cfg.wait400Reads ++
      s.finishEvents (k + 2 * s.cfg.wait400Reads + p + 260) q := by
    simp only [State.identifyEvents, State.identifyDataEvents, List.append_assoc]
  rw [identifyCommand_ranIo_of_identifyDataMeets ht hi h]
  simp only [State.parsedInto_ranIo, hevents, State.parsedInto_setTag]
  obtain ⟨d, b, heq⟩ := s.parsedInto_eq (s.identifyWords k p)
  rw [heq]
  rw [← hpoll] at hm
  have hrun := identifyFinish_ranIo_of_waitMeets (e := e ++ (s.identifyPollEvents k p ++
      s.dataReads (k + s.cfg.wait400Reads + p + 4) 256))
    (s := { s with desc := d, identified := b, identBuf := s.identifyWords k p, tag := .identify })
    (if parseIdentify (s.identifyWords k p) = none then .capabilityAbsent else .ok) hq hm
  simp only [identifyCode_eq] at hrun
  refine hrun.trans ?_
  simp only [hpoll, hlast, hcount]
  rfl

end

/-! ### The statements -/

theorem exec_identify {i : Instr} (hi : i = .identify ∨ i = .identifyDevice) (s : State) :
    exec i s = finish (identifyCommand s) := by
  obtain rfl | rfl := hi <;> rfl

/-- Settles O31: an accepted command byte in interrupt mode, from the first port read on. -/
theorem identifyCompletesInInterruptMode : Obligations.IdentifyCompletesInInterruptMode := by
  intro i s hinstr ht hi h
  have hrun := identifyCommand_ranIo_of_issueMeets (e := []) ht h
  simp only [State.ranIo_zero, List.nil_append, Nat.zero_add, if_pos hi] at hrun
  rw [exec_identify hinstr]
  exact finish_eq_next hrun

/-- Settles O30: the second poll ends on an idle status, and the parse succeeded. -/
theorem identifyCompletesPolled : Obligations.IdentifyCompletesPolled := by
  intro i s p q f hinstr ht hi ⟨hdata, hq, hm, hidle⟩ hf
  have hlast : 0 + 2 * s.cfg.wait400Reads + p + 260 + q + 1 = 2 * s.cfg.wait400Reads + p + q + 261 := by omega
  have hrun := identifyCommand_ranIo_of_second_waitMeets (e := []) ht hi hdata hq hm
  rw [hlast] at hidle
  simp only [State.ranIo_zero, List.nil_append, Nat.zero_add, if_pos hidle, State.parsedInto_of_some hf, identifyCode, hf]
    at hrun
  rw [exec_identify hinstr]
  exact finish_eq_next hrun

/-- Settles O32: the exits of `identifyCommand` one by one, from the first port read on. -/
theorem identifyExits : Obligations.IdentifyExits := by
  intro i s hinstr ht w n
  rw [exec_identify hinstr]
  have hrefused := identifyCommand_ranIo_of_not_quiescent (k := 0) (e := []) ht
  have herror := identifyCommand_ranIo_of_error (k := 0) (e := []) ht
  have hfirst := fun hi => identifyCommand_ranIo_of_first_waitMisses (k := 0) (e := []) ht hi
  have hbusy := fun hi p => identifyCommand_ranIo_of_busy (k := 0) (p := p) (e := []) ht hi
  have hnoDrq := fun hi p => identifyCommand_ranIo_of_no_drq (k := 0) (p := p) (e := []) ht hi
  have hsecond := fun hi p => identifyCommand_ranIo_of_second_waitMisses (k := 0) (p := p) (e := []) ht hi
  have hends := fun hi p q => identifyCommand_ranIo_of_second_waitMeets (k := 0) (p := p) (q := q) (e := []) ht hi
  simp only [State.ranIo_zero, List.nil_append, Nat.zero_add] at hrefused herror hfirst hbusy hnoDrq hsecond hends
  refine ⟨fun h => finish_eq_next (hrefused h), fun hidle hdrdy herr => finish_eq_next ?_, fun hi =>
    ⟨fun hissue hm => finish_eq_next (hfirst hi hissue hm), fun p h hb => finish_eq_next (hbusy hi p h hb),
      fun p h hb hd => finish_eq_next (hnoDrq hi p h hb hd), fun p h hm => finish_eq_next (hsecond hi p h hm),
      fun p q h hq hm hidle => finish_eq_next ?_, fun p q ⟨h, hq, hm, hidle⟩ hnone => finish_eq_next ?_⟩⟩
  · refine herror hidle hdrdy fun hissue => ?_
    rw [State.issueMeets, Nat.add_comm, herr] at hissue
    cases hissue
  · exact (hends hi p q h hq hm).trans (if_neg (ne_true_of_eq_false hidle))
  · have hlast : 0 + 2 * s.cfg.wait400Reads + p + 260 + q + 1 = 2 * s.cfg.wait400Reads + p + q + 261 := by omega
    rw [Nat.zero_add] at hm
    refine ((hends hi p q h hq hm).trans (if_pos (hlast ▸ hidle))).trans ?_
    rw [identifyCode, if_pos hnone, State.parsedInto_of_none hnone]

end Sys2Proof.Machine

/-! Proofs about the unit transfer (spec/42_command_transfer.md R235; spec/20_memory.md R77, R79): the words it stores, its
burst in either direction as a run `State.ranIo`, the first word that is not admitted, and its exits. -/

namespace Sys2Proof.Machine

/-! ### Words in caller memory -/

/-- Caller memory after words were stored one after the other from `a` on. -/
def Memory.storeWords (m : Memory) (a : Nat) : List Word → Memory
  | [] => m
  | v :: vs =>
    Memory.storeWords (Memory.write (Memory.write m a (v.extractLsb' 0 8)) (a + 1) (v.extractLsb' 8 8)) (a + 2) vs

theorem Memory.storeWords_wf {m : Memory} (a : Nat) (ws : List Word) (hm : Memory.wf m = true) :
    Memory.wf (Memory.storeWords m a ws) = true := by
  induction ws generalizing m a with
  | nil => exact hm
  | cons v vs ih => exact ih _ (Memory.wf_write _ _ (Memory.wf_write _ _ hm))

/-- A byte outside the range of the words keeps its value. -/
theorem Memory.read_storeWords_of_outside {m : Memory} {a x : Nat} (ws : List Word) (hm : Memory.wf m = true)
    (hx : x < a ∨ a + 2 * ws.length ≤ x) : Memory.read (Memory.storeWords m a ws) x = Memory.read m x := by
  induction ws generalizing m a with
  | nil => rfl
  | cons v vs ih =>
    rw [List.length_cons] at hx
    rw [Memory.storeWords, ih (Memory.wf_write _ _ (Memory.wf_write _ _ hm)) (by omega),
      Memory.read_write _ _ _ (Memory.wf_write _ _ hm), Memory.read_write _ _ _ hm, if_neg (by omega),
      if_neg (by omega)]

/-- Each word stands at its place, the low byte first (R77). -/
theorem Memory.read_storeWords {m : Memory} {a j : Nat} {ws : List Word} {v : Word} (hm : Memory.wf m = true)
    (hv : ws[j]? = some v) :
    Memory.read (Memory.storeWords m a ws) (a + 2 * j) = v.extractLsb' 0 8 ∧
      Memory.read (Memory.storeWords m a ws) (a + 2 * j + 1) = v.extractLsb' 8 8 := by
  induction ws generalizing m a j with
  | nil => simp at hv
  | cons u us ih =>
    have hm' := Memory.wf_write a (u.extractLsb' 0 8) hm
    cases j with
    | zero =>
      obtain rfl : u = v := by simpa using hv
      rw [Memory.storeWords, Memory.read_storeWords_of_outside us (Memory.wf_write _ _ hm') (by omega),
        Memory.read_storeWords_of_outside us (Memory.wf_write _ _ hm') (by omega), Memory.read_write _ _ _ hm',
        Memory.read_write _ _ _ hm', Memory.read_write _ _ _ hm]
      simp
    | succ j =>
      have hplace : a + 2 * (j + 1) = a + 2 + 2 * j := by omega
      rw [hplace]
      exact ih (Memory.wf_write _ _ hm') (by simpa using hv)

theorem Memory.stored_storeWords {m : Memory} (a : Nat) (ws : List Word) (hm : Memory.wf m = true) :
    Memory.Stored m (Memory.storeWords m a ws) a ws :=
  ⟨Memory.storeWords_wf a ws hm, fun _ _ => Memory.read_storeWords hm,
    fun _ => Memory.read_storeWords_of_outside ws hm⟩

/-! ### Admitted words (R79) -/

theorem State.admitsRange_mono {s : State} {a n n' : Nat} (h : s.admitsRange a n) (hle : n' ≤ n) :
    s.admitsRange a n' := fun k hk => h k (hk.trans_le hle)

/-- The range past its first bytes. -/
theorem State.admitsRange_tail {s : State} {a n : Nat} (d : Nat) (h : s.admitsRange a (d + n)) :
    s.admitsRange (a + d) n := fun k hk => by
  rw [Nat.add_assoc]
  exact h (d + k) (by omega)

theorem State.admitsRange_word {s : State} {a n : Nat} (h : s.admitsRange a (2 * (n + 1))) :
    s.admits a = true ∧ s.admits (a + 1) = true := ⟨h 0 (by omega), h 1 (by omega)⟩

/-- Either a range of words is admitted, or one word of it is the first that is not. -/
theorem State.admitsRange_or_first (s : State) (a n : Nat) :
    s.admitsRange a (2 * n) ∨
    ∃ j, j < n ∧ s.admitsRange a (2 * j) ∧ (s.admits (a + 2 * j) && s.admits (a + 2 * j + 1)) = false := by
  induction n with
  | zero => exact .inl fun k hk => absurd hk (by omega)
  | succ n ih =>
    obtain hadm | ⟨j, hj, hadm, hbad⟩ := ih
    · by_cases hw : (s.admits (a + 2 * n) && s.admits (a + 2 * n + 1)) = true
      · rw [Bool.and_eq_true] at hw
        refine .inl fun k hk => ?_
        obtain hlt | rfl | rfl : k < 2 * n ∨ k = 2 * n ∨ k = 2 * n + 1 := by omega
        · exact hadm k hlt
        · exact hw.1
        · exact hw.2
      · exact .inr ⟨n, n.lt_succ_self, hadm, Bool.not_eq_true _ ▸ hw⟩
    · exact .inr ⟨j, hj.trans n.lt_succ_self, hadm, hbad⟩

theorem memWrite16_of_admits {a : Nat} (v : Word) {s : State} (ha : s.admits a = true)
    (ha1 : s.admits (a + 1) = true) :
    memWrite16 a v s = .ok ({ s with
      mem := Memory.write (Memory.write s.mem a (v.extractLsb' 0 8)) (a + 1) (v.extractLsb' 8 8) }.emit
        (.memWrite a v)) := by
  rw [memWrite16, ha, ha1]
  rfl

theorem memWrite16_of_not_admits {a : Nat} (v : Word) {s : State} (h : (s.admits a && s.admits (a + 1)) = false) :
    memWrite16 a v s = .error (.callerMemoryNotAdmitted a) := by
  rw [memWrite16, h]
  rfl

theorem memRead16_of_not_admits {a : Nat} {s : State} (h : (s.admits a && s.admits (a + 1)) = false) :
    memRead16 a s = .error (.callerMemoryNotAdmitted a) := by
  rw [memRead16, h]
  rfl

/-! ### The burst from the device (R235) -/

/-- The block with another caller memory. -/
def State.withMem (s : State) (m : Memory) : State := { s with mem := m }

theorem emit_ranIo (s : State) (k : Nat) (e : List Event) (ev : Event) :
    (s.ranIo k e).emit ev = s.ranIo k (e ++ [ev]) := by
  rw [emit_eq, State.ranIo_ranIo]
  rfl

/-- The first word of a unit, and the rest of it. -/
theorem State.unitInEvents_succ (s : State) (k a n : Nat) :
    s.unitInEvents k a (n + 1) =
      .portRead16 (portAddr s.cfg .data) (s.nth k) :: .memWrite a (s.nth k) :: s.unitInEvents (k + 1) (a + 2) n := by
  have hplace : ∀ j, a + 2 * (j + 1) = a + 2 + 2 * j := fun j => by omega
  simp [State.unitInEvents, List.range_succ_eq_map, List.flatMap_map, ← Nat.add_assoc, Nat.add_right_comm k 1, hplace]

theorem State.unitOutEvents_succ (s : State) (a n : Nat) :
    s.unitOutEvents a (n + 1) =
      .memRead a (Memory.word s.mem a) :: .portWrite16 (portAddr s.cfg .data) (Memory.word s.mem a) ::
        s.unitOutEvents (a + 2) n := by
  have hplace : ∀ j, a + 2 * (j + 1) = a + 2 + 2 * j := fun j => by omega
  simp [State.unitOutEvents, Memory.word, List.range_succ_eq_map, List.flatMap_map, hplace]

section

variable {s : State} {k a n : Nat} {e : List Event}

/-- One word from the device into memory that admits it. -/
theorem moveIn_succ_ranIo (h : s.admitsRange a (2 * (n + 1))) :
    moveIn (n + 1) a (s.ranIo k e) =
      moveIn n (a + 2) ((s.withMem (Memory.storeWords s.mem a [s.nth k])).ranIo (k + 1)
        (e ++ [.portRead16 (portAddr s.cfg .data) (s.nth k), .memWrite a (s.nth k)])) := by
  obtain ⟨ha, ha1⟩ := State.admitsRange_word h
  have hstore : memWrite16 a (s.nth k) (s.ranIo (k + 1) (e ++ [.portRead16 (portAddr s.cfg .data) (s.nth k)])) =
      .ok ((s.withMem (Memory.storeWords s.mem a [s.nth k])).ranIo (k + 1)
        (e ++ [.portRead16 (portAddr s.cfg .data) (s.nth k), .memWrite a (s.nth k)])) := by
    refine (memWrite16_of_admits (s := s.ranIo _ _) _ ha ha1).trans (congrArg Except.ok ?_)
    refine (emit_ranIo (s.withMem (Memory.storeWords s.mem a [s.nth k])) (k + 1) _ _).trans ?_
    rw [List.append_assoc, List.singleton_append]
  simp only [moveIn, portRead16_ranIo, hstore]

/-- One word of admitted memory to the device. -/
theorem moveOut_succ_ranIo (h : s.admitsRange a (2 * (n + 1))) :
    moveOut (n + 1) a (s.ranIo k e) =
      moveOut n (a + 2) (s.ranIo k (e ++
        [.memRead a (Memory.word s.mem a), .portWrite16 (portAddr s.cfg .data) (Memory.word s.mem a)])) := by
  obtain ⟨ha, ha1⟩ := State.admitsRange_word h
  have hload : memRead16 a (s.ranIo k e) = .ok (Memory.word s.mem a, s.ranIo k (e ++ [.memRead a (Memory.word s.mem a)])) :=
    (memRead16_of_admits (s := s.ranIo k e) ha ha1).trans (by rw [emit_ranIo]; rfl)
  simp only [moveOut, hload, portWrite16, emit_ranIo, List.append_assoc, List.singleton_append, State.ranIo_cfg]

/-- A whole unit from the device: the words stand in memory, and every event is given. -/
theorem moveIn_ranIo (h : s.admitsRange a (2 * n)) :
    moveIn n a (s.ranIo k e) =
      .ok ((s.withMem (Memory.storeWords s.mem a (s.nextWords k n))).ranIo (k + n) (e ++ s.unitInEvents k a n)) := by
  induction n generalizing s k a e with
  | zero => simp [moveIn, State.nextWords, State.unitInEvents, Memory.storeWords, State.withMem]
  | succ n ih =>
    have hrest : (s.withMem (Memory.storeWords s.mem a [s.nth k])).admitsRange (a + 2) (2 * n) :=
      State.admitsRange_tail (s := s) 2 (by rwa [Nat.mul_succ, Nat.add_comm] at h)
    have hcount : k + 1 + n = k + (n + 1) := by omega
    rw [moveIn_succ_ranIo h, ih hrest, hcount, State.nextWords_succ, State.unitInEvents_succ, List.append_assoc]
    rfl

/-- A whole unit to the device: memory is read only. -/
theorem moveOut_ranIo (h : s.admitsRange a (2 * n)) :
    moveOut n a (s.ranIo k e) = .ok (s.ranIo k (e ++ s.unitOutEvents a n)) := by
  induction n generalizing a e with
  | zero => simp [moveOut, State.unitOutEvents]
  | succ n ih =>
    have hrest : s.admitsRange (a + 2) (2 * n) := State.admitsRange_tail 2 (by rwa [Nat.mul_succ, Nat.add_comm] at h)
    rw [moveOut_succ_ranIo h, ih hrest, State.unitOutEvents_succ, List.append_assoc]
    rfl

end

/-! ### The first word that is not admitted (R79) -/

/-- A burst whose first words move goes on from there. -/
theorem moveIn_add {j a : Nat} {s t : State} (m : Nat) (h : moveIn j a s = .ok t) :
    moveIn (j + m) a s = moveIn m (a + 2 * j) t := by
  induction j generalizing a s with
  | zero =>
    cases h
    rw [Nat.zero_add]
    rfl
  | succ j ih =>
    have hplace : a + 2 * (j + 1) = a + 2 + 2 * j := by omega
    rw [Nat.add_right_comm, hplace]
    simp only [moveIn] at h ⊢
    split at h
    · cases h
    · exact ih h

theorem moveOut_add {j a : Nat} {s t : State} (m : Nat) (h : moveOut j a s = .ok t) :
    moveOut (j + m) a s = moveOut m (a + 2 * j) t := by
  induction j generalizing a s with
  | zero =>
    cases h
    rw [Nat.zero_add]
    rfl
  | succ j ih =>
    have hplace : a + 2 * (j + 1) = a + 2 + 2 * j := by omega
    rw [Nat.add_right_comm, hplace]
    simp only [moveOut] at h ⊢
    split at h
    · cases h
    · exact ih h

theorem moveIn_succ_of_not_admits {s : State} {a : Nat} (n : Nat) (h : (s.admits a && s.admits (a + 1)) = false) :
    moveIn (n + 1) a s = .error (.callerMemoryNotAdmitted a) := by
  rw [moveIn, memWrite16_of_not_admits (s := (portRead16 .data s).2) _ h]

theorem moveOut_succ_of_not_admits {s : State} {a : Nat} (n : Nat) (h : (s.admits a && s.admits (a + 1)) = false) :
    moveOut (n + 1) a s = .error (.callerMemoryNotAdmitted a) := by
  rw [moveOut, memRead16_of_not_admits h]

section

variable {s : State} {k a j n : Nat} {e : List Event} (hj : j < n) (hadm : s.admitsRange a (2 * j))
  (hbad : (s.admits (a + 2 * j) && s.admits (a + 2 * j + 1)) = false)

include hj hadm hbad

theorem moveIn_stuck : moveIn n a (s.ranIo k e) = .error (.callerMemoryNotAdmitted (a + 2 * j)) := by
  obtain ⟨m, rfl⟩ := Nat.exists_eq_add_of_lt hj
  rw [Nat.add_assoc, moveIn_add (m + 1) (moveIn_ranIo hadm)]
  exact moveIn_succ_of_not_admits m hbad

theorem moveOut_stuck : moveOut n a (s.ranIo k e) = .error (.callerMemoryNotAdmitted (a + 2 * j)) := by
  obtain ⟨m, rfl⟩ := Nat.exists_eq_add_of_lt hj
  rw [Nat.add_assoc, moveOut_add (m + 1) (moveOut_ranIo hadm)]
  exact moveOut_succ_of_not_admits m hbad

end

/-! ### The unit transfer (R235) -/

theorem failedOr_ne {b : Byte} {c d : ResultCode} (hd : d ≠ .deviceError) (hc : d ≠ c) : failedOr b c ≠ d := by
  unfold failedOr
  split
  · exact hd.symm
  · exact hc.symm

theorem transfer_of_none_due {s : State} (h : s.tag.isData = false ∨ s.remaining = 0#32) :
    transfer s = .ok (.protocolViolation, s) := by
  rw [transfer, if_pos (by simpa using h)]

section

variable {s : State} {k : Nat} {e : List Event} (hdata : s.tag.isData = true) (hrem : s.remaining ≠ 0#32)

include hdata hrem

/-- Where a unit is due the status is read, and it decides. -/
theorem transfer_ranIo_of_due :
    transfer (s.ranIo k e) =
      if statusBsy (s.nextByte k) then .ok (.busyRetry, s.ranIo (k + 1) (e ++ [s.altRead k]))
      else if !statusDrq (s.nextByte k) then
        .ok (failedOr (s.nextByte k) .protocolViolation, (s.ranIo (k + 1) (e ++ [s.altRead k])).endCommand)
      else (moveUnit (s.ranIo (k + 1) (e ++ [s.altRead k]))).map fun t => (.ok, advanceCursor s t) := by
  rw [transfer, if_neg (by simp [hdata, hrem]), altStatusRead_ranIo]
  dsimp only
  cases hm : moveUnit (s.ranIo (k + 1) (e ++ [s.altRead k])) <;> rfl

theorem transfer_ranIo_of_busy (hb : statusBsy (s.nextByte k) = true) :
    transfer (s.ranIo k e) = .ok (.busyRetry, s.ranIo (k + 1) (e ++ [s.altRead k])) := by
  rw [transfer_ranIo_of_due hdata hrem, if_pos hb]

theorem transfer_ranIo_of_no_drq (hb : statusBsy (s.nextByte k) = false) (hd : statusDrq (s.nextByte k) = false) :
    transfer (s.ranIo k e) =
      .ok (failedOr (s.nextByte k) .protocolViolation, (s.ranIo (k + 1) (e ++ [s.altRead k])).endCommand) := by
  rw [transfer_ranIo_of_due hdata hrem, if_neg (ne_true_of_eq_false hb), hd]
  rfl

theorem transfer_ranIo_of_drq (hb : statusBsy (s.nextByte k) = false) (hd : statusDrq (s.nextByte k) = true) :
    transfer (s.ranIo k e) =
      (moveUnit (s.ranIo (k + 1) (e ++ [s.altRead k]))).map fun t => (.ok, advanceCursor s t) := by
  rw [transfer_ranIo_of_due hdata hrem, if_neg (ne_true_of_eq_false hb), hd]
  rfl

/-- The burst is stuck at the first word that is not admitted, in either direction. -/
theorem transfer_ranIo_stuck {j : Nat} (hb : statusBsy (s.nextByte k) = false) (hd : statusDrq (s.nextByte k) = true)
    (hj : j < unitWords s) (hadm : s.admitsRange s.cursorPtr.toNat (2 * j))
    (hbad : (s.admits (s.cursorPtr.toNat + 2 * j) && s.admits (s.cursorPtr.toNat + 2 * j + 1)) = false) :
    transfer (s.ranIo k e) = .error (.callerMemoryNotAdmitted (s.cursorPtr.toNat + 2 * j)) := by
  have hstuck : moveUnit (s.ranIo (k + 1) (e ++ [s.altRead k])) =
      .error (.callerMemoryNotAdmitted (s.cursorPtr.toNat + 2 * j)) := by
    unfold moveUnit
    split
    · exact moveIn_stuck hj hadm hbad
    · exact moveOut_stuck hj hadm hbad
  rw [transfer_ranIo_of_drq hdata hrem hb hd, hstuck]
  rfl

/-- The block after a unit from the device, from the `k`-th port read on. -/
theorem transfer_ranIo_in (hb : statusBsy (s.nextByte k) = false) (hd : statusDrq (s.nextByte k) = true)
    (hread : s.tag.isRead = true) (hadm : s.admitsRange s.cursorPtr.toNat (2 * unitWords s)) :
    transfer (s.ranIo k e) = .ok (.ok, advanceCursor s
      ((s.withMem (Memory.storeWords s.mem s.cursorPtr.toNat (s.nextWords (k + 1) (unitWords s)))).ranIo
        (k + 1 + unitWords s)
        (e ++ [s.altRead k] ++ s.unitInEvents (k + 1) s.cursorPtr.toNat (unitWords s)))) := by
  have hmove : moveUnit (s.ranIo (k + 1) (e ++ [s.altRead k])) = _ := (if_pos hread).trans (moveIn_ranIo hadm)
  rw [transfer_ranIo_of_drq hdata hrem hb hd, hmove]
  rfl

/-- The block after a unit to the device. -/
theorem transfer_ranIo_out (hb : statusBsy (s.nextByte k) = false) (hd : statusDrq (s.nextByte k) = true)
    (hread : s.tag.isRead = false) (hadm : s.admitsRange s.cursorPtr.toNat (2 * unitWords s)) :
    transfer (s.ranIo k e) = .ok (.ok, advanceCursor s
      (s.ranIo (k + 1) (e ++ [s.altRead k] ++ s.unitOutEvents s.cursorPtr.toNat (unitWords s)))) := by
  have hmove : moveUnit (s.ranIo (k + 1) (e ++ [s.altRead k])) = _ :=
    (if_neg (ne_true_of_eq_false hread)).trans (moveOut_ranIo hadm)
  rw [transfer_ranIo_of_drq hdata hrem hb hd, hmove]
  rfl

end

/-- Below the top of the address space the cursor moves on without a cut. -/
theorem advanceCursor_eq_pastUnit {s t : State}
    (h : s.cursorPtr.toNat + 2 * unitWords s < 2 ^ s.cfg.ptrWidth.bits) (hcfg : t.cfg = s.cfg) :
    advanceCursor s t = s.pastUnit t := by
  rw [advanceCursor, hcfg, toPtr_of_lt h, State.pastUnit]

/-! ### The statements -/

/-- Settles O43: the burst in the direction of the tag, from the first port read on. -/
theorem transferUnitCompletes : Obligations.TransferUnitCompletes := by
  intro s ⟨⟨hdata, hrem⟩, hadm, htop⟩ hb hd
  have hin := transfer_ranIo_in (e := []) hdata hrem hb hd
  have hout := transfer_ranIo_out (e := []) hdata hrem hb hd
  simp only [State.ranIo_zero, List.nil_append, Nat.zero_add, List.singleton_append] at hin hout
  refine ⟨fun hread hm => ⟨_, Memory.stored_storeWords _ _ hm, ?_⟩, fun hread => ?_⟩
  · refine (finishMem_eq_next (hin hread hadm)).trans ?_
    rw [advanceCursor_eq_pastUnit htop, Nat.add_comm 1 (unitWords s)]
    · rfl
    · rfl
  · refine (finishMem_eq_next (hout hread hadm)).trans ?_
    rw [advanceCursor_eq_pastUnit htop]
    rfl

/-- Settles O44: the exits of `transfer` one by one, from the first port read on. -/
theorem transferUnitExits : Obligations.TransferUnitExits := by
  intro s
  refine ⟨fun hnone => finishMem_eq_next (transfer_of_none_due hnone), fun hdata hrem => ?_⟩
  have hbusy := transfer_ranIo_of_busy (k := 0) (e := []) hdata hrem
  have hnoDrq := transfer_ranIo_of_no_drq (k := 0) (e := []) hdata hrem
  have hstuck := fun j => transfer_ranIo_stuck (k := 0) (j := j) (e := []) hdata hrem
  simp only [State.ranIo_zero, List.nil_append, Nat.zero_add] at hbusy hnoDrq hstuck
  exact ⟨fun hb => finishMem_eq_next (hbusy hb), fun hb hd => finishMem_eq_next (hnoDrq hb hd),
    fun j hb hd hj hadm hbad => congrArg finishMem (hstuck j hb hd hj hadm hbad)⟩

end Sys2Proof.Machine

/-! Proofs about what an interrupt does (spec/43_interrupt_dispatcher.md R280 to R284; spec/41_identify.md R193): the
completion check with the EOI after it, the unit that is due, the cases without a unit, and the identify data phase. -/

namespace Sys2Proof.Machine

/-! ### The operation around the dispatcher (R280, R282) -/

/-- An interrupt is the Status read, the dispatcher, and the return with its EOI. -/
theorem exec_onInterrupt (s : State) :
    exec .onInterrupt s =
      finishMem ((dispatch (s.nextByte 0) (s.ranIo 1 [s.statusRead])).map interruptReturn) := by
  change execOnInterrupt s = _
  rw [State.statusRead]
  simp only [execOnInterrupt, interruptEntry, portRead8_eq]
  generalize dispatch (s.nextByte 0) (s.ranIo 1 [.portRead8 (portAddr s.cfg .status) (s.nextByte 0)]) = r
  cases r <;> rfl

section

variable {s : State}

theorem onInterrupt_of_dispatch {r : OpOut} {c : ResultCode} {u : State}
    (h : dispatch (s.nextByte 0) (s.ranIo 1 [s.statusRead]) = .ok r) (hr : interruptReturn r = (c, u)) :
    exec .onInterrupt s = .next (u.setResult c .none) := by
  rw [exec_onInterrupt, h]
  exact finish_eq_next hr

theorem onInterrupt_of_stuck {f : Fault} (h : dispatch (s.nextByte 0) (s.ranIo 1 [s.statusRead]) = .error f) :
    exec .onInterrupt s = .fault f := by
  rw [exec_onInterrupt, h]
  rfl

end

theorem interruptReturn_ranIo (c : ResultCode) (s : State) (k : Nat) (e : List Event) :
    interruptReturn (c, s.ranIo k e) = (c, s.ranIo k (e ++ [.sendEOI s.cfg.irqLine])) :=
  congrArg (Prod.mk c) (emit_ranIo s k e _)

theorem interruptReturn_endCommand (c : ResultCode) (s : State) (k : Nat) (e : List Event) :
    interruptReturn (c, (s.ranIo k e).endCommand) =
      (c, (s.ranIo k (e ++ [.sendEOI s.cfg.irqLine])).endCommand) :=
  interruptReturn_ranIo c s.endCommand k e

/-! ### The completion check (R281) -/

theorem completeUnit_of_not_ok {r : OpOut} (h : r.1 ≠ .ok) : completeUnit r = r := if_neg fun hc => h hc.1

/-- A fresh status byte that shows the device idle ends the command; the EOI follows either way. -/
theorem interruptReturn_completeUnit {s : State} (ht : s.tag ≠ .none) (k : Nat) (e : List Event) :
    interruptReturn (completeUnit (.ok, s.ranIo k e)) =
      let u := s.ranIo (k + s.cfg.wait400Reads + 1)
        (e ++ s.altReads k (s.cfg.wait400Reads + 1) ++ [.sendEOI s.cfg.irqLine])
      (.ok, if statusIdle (s.nextByte (k + s.cfg.wait400Reads)) then u.endCommand else u) := by
  have hreads : s.altReads k (s.cfg.wait400Reads + 1) =
      s.altReads k s.cfg.wait400Reads ++ [s.altRead (k + s.cfg.wait400Reads)] := State.altReads_add ..
  rw [completeUnit, if_pos ⟨rfl, ht⟩, hreads, ← List.append_assoc e]
  simp only [completionCheck, wait400_ranIo, altStatusRead_ranIo]
  split
  · exact interruptReturn_endCommand _ _ _ _
  · exact interruptReturn_ranIo _ _ _ _

/-- The same after an identify data phase. -/
theorem interruptReturn_completeUnit_parsedInto {s : State} (ht : s.tag ≠ .none) (w : IdentBuf) (k : Nat)
    (e : List Event) :
    interruptReturn (completeUnit (.ok, (s.ranIo k e).parsedInto w)) =
      let u := (s.ranIo (k + s.cfg.wait400Reads + 1)
        (e ++ s.altReads k (s.cfg.wait400Reads + 1) ++ [.sendEOI s.cfg.irqLine])).parsedInto w
      (.ok, if statusIdle (s.nextByte (k + s.cfg.wait400Reads)) then u.endCommand else u) := by
  unfold State.parsedInto
  split
  · next f _ => exact interruptReturn_completeUnit (s := (s.setIdentBuf w).commit f) ht k e
  · exact interruptReturn_completeUnit (s := (s.setIdentBuf w).setIdentified false) ht k e

/-! ### Without a unit (R283, R284, R193) -/

section

variable {s : State} {status : Byte} {k : Nat} {e : List Event}

theorem dispatch_of_failed (h : statusFailed status = true) : dispatch status s = .ok (.deviceError, s) := by
  rw [dispatch, if_neg (by simp [h]), dispatchNoUnit, if_pos h]

/-- Without a unit due the status and the tag decide. -/
theorem dispatch_of_not_due (hdue : unitDue s = false) :
    dispatch status s = .ok (dispatchNoUnit status s) := by
  rw [dispatch, if_neg (by simp [hdue])]

theorem dispatch_of_spurious (h : statusFailed status = false) (ht : s.tag = .none) :
    dispatch status s = .ok (.protocolViolation, s) := by
  rw [dispatch_of_not_due (by rw [unitDue, ht]; rfl), dispatchNoUnit, h, ht]
  rfl

theorem dispatch_of_identify (h : statusFailed status = false) (ht : s.tag = .identify) :
    dispatch status s = .ok (completeUnit (identifyData s)) := by
  rw [dispatch_of_not_due (by rw [unitDue, ht]; rfl), dispatchNoUnit, h, ht]
  rfl

/-- An administrative tag, or a data tag with nothing remaining, goes straight to the completion check. -/
theorem dispatch_of_nothing_due (h : statusFailed status = false)
    (ht : s.tag ∈ [.softReset, .flushCache, .setMultiple] ∨ (s.tag.isData = true ∧ s.remaining = 0#32)) :
    dispatch status s = .ok (completeUnit (.ok, s)) := by
  have hdue : unitDue s = false := by
    obtain hadmin | ⟨_, hrem⟩ := ht
    · simp only [List.mem_cons, List.not_mem_nil, or_false] at hadmin
      obtain htag | htag | htag := hadmin <;> (rw [unitDue, htag]; rfl)
    · simp [unitDue, hrem]
  rw [dispatch_of_not_due hdue, dispatchNoUnit, h]
  cases htag : s.tag with
  | none | identify => simp [htag, Tag.isData] at ht
  | _ => rfl

theorem dispatch_of_due (h : statusFailed status = false) (hdata : s.tag.isData = true) (hrem : s.remaining ≠ 0#32) :
    dispatch status s = (transfer s).map completeUnit := by
  rw [dispatch, if_pos (by simp [unitDue, hdata, hrem, h])]
  cases transfer s <;> rfl

end

/-! ### The unit that is due (R280) -/

theorem tag_ne_none_of_isData {t : Tag} (h : t.isData = true) : t ≠ .none := by
  rintro rfl
  cases h

/-- The end of an interrupt whose unit has moved. -/
theorem onInterrupt_of_unit {s : State} {m : Memory} {k : Nat} {e : List Event}
    (hfailed : statusFailed (s.nextByte 0) = false) (hdata : s.tag.isData = true) (hrem : s.remaining ≠ 0#32)
    (h : transfer (s.ranIo 1 [s.statusRead]) = .ok (.ok, s.pastUnit ((s.withMem m).ranIo k e))) :
    exec .onInterrupt s =
      let u := s.pastUnit ((s.withMem m).ranIo (k + s.cfg.wait400Reads + 1)
        (e ++ s.altReads k (s.cfg.wait400Reads + 1) ++ [.sendEOI s.cfg.irqLine]))
      .next ((if statusIdle (s.nextByte (k + s.cfg.wait400Reads)) then u.endCommand else u).setResult .ok .none) := by
  have hdispatch : dispatch (s.nextByte 0) (s.ranIo 1 [s.statusRead]) = _ := dispatch_of_due hfailed hdata hrem
  rw [h] at hdispatch
  have htag : (s.pastUnit (s.withMem m)).tag ≠ .none := tag_ne_none_of_isData hdata
  exact onInterrupt_of_dispatch hdispatch (interruptReturn_completeUnit htag k e)

/-! ### The statements -/

/-- Settles O52: the unit as in `transfer`, then the completion check. -/
theorem onInterruptUnitCompletes : Obligations.OnInterruptUnitCompletes := by
  intro s ⟨⟨hdata, hrem⟩, hadm, htop⟩ hfailed hb hd w n entry done
  refine ⟨fun hread hm => ⟨_, Memory.stored_storeWords _ _ hm, ?_⟩, fun hread => ?_⟩
  · have hunit := transfer_ranIo_in (e := [s.statusRead]) hdata hrem hb hd hread hadm
    rw [advanceCursor_eq_pastUnit htop] at hunit
    on_goal 2 => rfl
    have hcount : 1 + 1 + unitWords s = n + 2 := Nat.add_comm _ _
    have hlast : n + 2 + s.cfg.wait400Reads = n + w + 2 := by omega
    have hrun := onInterrupt_of_unit hfailed hdata hrem hunit
    rw [hcount, hlast] at hrun
    exact hrun
  · have hunit := transfer_ranIo_out (e := [s.statusRead]) hdata hrem hb hd hread hadm
    rw [advanceCursor_eq_pastUnit htop] at hunit
    on_goal 2 => rfl
    have hlast : 1 + 1 + s.cfg.wait400Reads = w + 2 := Nat.add_comm _ _
    have hrun := onInterrupt_of_unit (m := s.mem) hfailed hdata hrem hunit
    rw [hlast] at hrun
    exact hrun

/-- Settles O53: the cases of the dispatcher without a whole unit one by one. -/
theorem onInterruptWithoutUnit : Obligations.OnInterruptWithoutUnit := by
  intro s w entry
  refine ⟨fun hfailed => ?_, fun hfailed ht => ?_, fun hfailed ht => ?_, fun hfailed hdata hrem => ?_⟩
  · exact onInterrupt_of_dispatch (dispatch_of_failed hfailed) (interruptReturn_ranIo _ _ _ _)
  · exact onInterrupt_of_dispatch (dispatch_of_spurious hfailed ht) (interruptReturn_ranIo _ _ _ _)
  · have htag : s.tag ≠ .none := by
      rintro hnone
      simp [hnone, Tag.isData] at ht
    have hcount : 1 + s.cfg.wait400Reads = w + 1 := Nat.add_comm _ _
    have hend := interruptReturn_completeUnit htag 1 [s.statusRead]
    rw [hcount] at hend
    exact onInterrupt_of_dispatch (dispatch_of_nothing_due hfailed ht) hend
  · have hdispatch : dispatch (s.nextByte 0) (s.ranIo 1 [s.statusRead]) = _ := dispatch_of_due hfailed hdata hrem
    have hbusy := transfer_ranIo_of_busy (k := 1) (e := [s.statusRead]) hdata hrem
    have hnoDrq := transfer_ranIo_of_no_drq (k := 1) (e := [s.statusRead]) hdata hrem
    have hstuck := fun j => transfer_ranIo_stuck (k := 1) (j := j) (e := [s.statusRead]) hdata hrem
    refine ⟨fun hb => ?_, fun hb hd => ?_, fun j hb hd hj hadm hbad => ?_⟩
    · rw [hbusy hb] at hdispatch
      exact onInterrupt_of_dispatch hdispatch (interruptReturn_ranIo _ _ _ _)
    · rw [hnoDrq hb hd] at hdispatch
      refine onInterrupt_of_dispatch hdispatch ?_
      rw [completeUnit_of_not_ok]
      · exact interruptReturn_endCommand _ _ _ _
      · exact failedOr_ne nofun nofun
    · rw [hstuck j hb hd hj hadm hbad] at hdispatch
      exact onInterrupt_of_stuck hdispatch

/-- Settles O55: the identify data phase after the Status read, and the completion check where it committed. -/
theorem onInterruptIdentify : Obligations.OnInterruptIdentify := by
  intro s ht hfailed w entry buf
  have hdispatch : dispatch (s.nextByte 0) (s.ranIo 1 [s.statusRead]) = _ := dispatch_of_identify hfailed ht
  have hbusy := identifyData_ranIo_of_busy (s := s) (k := 1) (e := [s.statusRead])
  have hnoDrq := identifyData_ranIo_of_no_drq (s := s) (k := 1) (e := [s.statusRead])
  have hdrq := identifyData_ranIo_of_drq (s := s) (k := 1) (e := [s.statusRead])
  simp only [Nat.reduceAdd] at hbusy hnoDrq hdrq
  refine ⟨fun hb => ?_, fun hb hd => ?_, fun hb hd hnone => ?_, fun f hb hd hsome => ?_⟩
  · rw [hbusy hb] at hdispatch
    exact onInterrupt_of_dispatch hdispatch (interruptReturn_ranIo _ _ _ _)
  · rw [hnoDrq hb hd] at hdispatch
    refine onInterrupt_of_dispatch hdispatch ?_
    rw [completeUnit_of_not_ok]
    · exact interruptReturn_endCommand _ _ _ _
    · exact failedOr_ne nofun nofun
  · have hdata := hdrq hb hd
    rw [if_pos hnone, State.parsedInto_ranIo] at hdata
    rw [hdata, completeUnit_of_not_ok ResultCode.noConfusion] at hdispatch
    have hrun := onInterrupt_of_dispatch hdispatch (interruptReturn_ranIo _ _ _ _)
    rw [State.parsedInto_cfg, ← State.parsedInto_ranIo, State.parsedInto_of_none hnone] at hrun
    exact hrun
  · have hdata := hdrq hb hd
    have hne : parseIdentify buf ≠ none := fun h => Option.some_ne_none f (hsome.symm.trans h)
    rw [if_neg hne, State.parsedInto_of_some hsome] at hdata
    rw [hdata] at hdispatch
    have hlast : 258 + s.cfg.wait400Reads = w + 258 := Nat.add_comm _ _
    have hend := interruptReturn_completeUnit_parsedInto (s := s) (ht ▸ Tag.noConfusion) buf 258
      ([s.statusRead] ++ s.altRead 1 :: s.dataReads 2 256)
    simp only [hlast, State.parsedInto_of_some hsome] at hend
    exact onInterrupt_of_dispatch hdispatch hend

end Sys2Proof.Machine

/-! Proofs about issuing a read or write (spec/42_command_transfer.md R225) and about the first pass of its polled data phase
(R236): the command as a run `State.ranIo`, the poll before a unit, and the transfer of one unit with its three ends. -/

namespace Sys2Proof.Machine

/-! ### Operands that the argument checks accept (R238, R239) -/

section

variable {c : Config} {d : Descriptor} {buf : Addr} {start count : DWord} (h : argsOk c d buf start count = true)

include h

theorem count_ne_zero_of_argsOk : count ≠ 0#32 := by
  rintro rfl
  simp [argsOk, countOk] at h

/-- The buffer ends below the top of the address space. -/
theorem buffer_lt_of_argsOk : buf.toNat + 2 * (count.toNat * d.sectorSize.toNat) < 2 ^ c.ptrWidth.bits := by
  simp only [argsOk, bufferOk, Bool.and_eq_true, decide_eq_true_eq] at h
  rw [← Nat.mul_assoc]
  exact h.2.2

theorem toPtr_of_argsOk : toPtr c buf.toNat = buf := by
  have hlt := buffer_lt_of_argsOk h
  rw [toPtr_of_lt (by omega), BitVec.ofNat_toNat, BitVec.setWidth_eq]

end

/-! ### The command (R225) -/

/-- The register writes, the opcode, the tag and the cursor. -/
theorem issueImage_ranIo {dir : Dir} {buf : Addr} {start count : DWord} {s : State}
    (h : toPtr s.cfg buf.toNat = buf) (k : Nat) (e : List Event) :
    issueImage (selectOpcode s.desc dir) buf start count (s.ranIo k e) =
      (s.inCommand dir buf count).ranIo k (e ++ imageEvents s.cfg (imageRW s.desc.hasLba48 s.selectedDrive start count) ++
        [commandEvent s.cfg (selectOpcode s.desc dir)]) := by
  have himage : portWrites (imageRW s.desc.hasLba48 s.selectedDrive start count) (s.ranIo k e) =
      s.ranIo k (e ++ imageEvents s.cfg (imageRW s.desc.hasLba48 s.selectedDrive start count)) := by
    rw [portWrites_eq, State.ranIo_ranIo]
    rfl
  simp only [issueImage, State.ranIo_desc, State.ranIo_selectedDrive, himage, portWrite8_ranIo, State.ranIo_cfg, h]
  rfl

theorem commandEvents_eq (s : State) (dir : Dir) (start count : DWord) (a b c : Nat) :
    s.readyEvents a b c ++ imageEvents s.cfg (imageRW s.desc.hasLba48 s.selectedDrive start count) ++
      [commandEvent s.cfg (selectOpcode s.desc dir)] ++ s.altReads (a + b + c + 3) (s.cfg.wait400Reads + 1) =
      s.commandEvents dir start count a b c := by
  simp only [State.commandEvents, State.issueEvents, List.append_assoc, List.singleton_append]

/-- The command after the ready waits, up to its immediate error check. -/
theorem issueImage_check {s : State} {dir : Dir} {buf : Addr} {start count : DWord}
    (h : toPtr s.cfg buf.toNat = buf) (a b c : Nat) :
    immediateErrorCheck (issueImage (selectOpcode s.desc dir) buf start count
      (s.ranIo (a + b + c + 3) (s.readyEvents a b c))) =
      let u := (s.inCommand dir buf count).ranIo (a + b + c + 3 + s.cfg.wait400Reads + 1)
        (s.commandEvents dir start count a b c)
      if immediateError (s.nextByte (a + b + c + 3 + s.cfg.wait400Reads)) then (.deviceError, u.endCommand)
      else (.ok, u) := by
  rw [issueImage_ranIo h, immediateErrorCheck_ranIo, ← commandEvents_eq]
  rfl

section

variable {s : State} {dir : Dir} {buf : Addr} {start count : DWord} {a b c : Nat} (hi : s.identified = true)
  (ht : s.tag = .none) (hargs : argsOk s.cfg s.desc buf start count = true) (hready : s.readyMeets a b c)

include hi ht hargs hready

/-- Admitted and ready, a read or write sends its command, and the immediate error check decides. -/
theorem issueRW_of_readyMeets :
    issueRW dir buf start count s =
      let u := (s.inCommand dir buf count).ranIo (a + b + c + 3 + s.cfg.wait400Reads + 1)
        (s.commandEvents dir start count a b c)
      if immediateError (s.nextByte (a + b + c + 3 + s.cfg.wait400Reads)) then .ok (.deviceError, u.endCommand)
      else if s.intEnabled then .ok (.ok, u) else pollTransfer u := by
  have hcheck := issueImage_check (dir := dir) (start := start) (count := count) (toPtr_of_argsOk hargs) a b c
  rw [issueRW, commandGuard_of_admitted hi ht, andThenMem_ok, hargs, checkReady_of_readyMeets hready]
  simp only [Bool.not_true, Bool.false_eq_true, if_false, andThenMem_ok, State.ranIo_desc, hcheck]
  split <;> rfl

theorem issueRW_of_error (herr : ¬ s.issueMeets (a + b + c + 3)) :
    issueRW dir buf start count s =
      .ok (.deviceError, ((s.inCommand dir buf count).ranIo (a + b + c + 3 + s.cfg.wait400Reads + 1)
        (s.commandEvents dir start count a b c)).endCommand) :=
  (issueRW_of_readyMeets hi ht hargs hready).trans (if_pos (Bool.not_eq_false _ ▸ herr))

theorem issueRW_of_issueMeets (hissue : s.issueMeets (a + b + c + 3)) :
    issueRW dir buf start count s =
      let u := (s.inCommand dir buf count).ranIo (a + b + c + 3 + s.cfg.wait400Reads + 1)
        (s.commandEvents dir start count a b c)
      if s.intEnabled then .ok (.ok, u) else pollTransfer u :=
  (issueRW_of_readyMeets hi ht hargs hready).trans (if_neg (ne_true_of_eq_false hissue))

/-- In polled mode the data phase begins, with a pass left (log 13). -/
theorem issueRW_polled (hissue : s.issueMeets (a + b + c + 3)) (he : s.intEnabled = false) :
    issueRW dir buf start count s =
      pollLoop (count.toNat - 1 + 1) ((s.inCommand dir buf count).ranIo (a + b + c + 3 + s.cfg.wait400Reads + 1)
        (s.commandEvents dir start count a b c)) := by
  have hpos : count.toNat ≠ 0 := fun h0 => count_ne_zero_of_argsOk hargs (BitVec.eq_of_toNat_eq h0)
  rw [issueRW_of_issueMeets hi ht hargs hready hissue, Nat.sub_add_cancel (Nat.pos_of_ne_zero hpos)]
  exact if_neg (ne_true_of_eq_false he)

end

/-! ### One pass of the polled data phase (R236) -/

section

variable {s : State} {k p : Nat} {e : List Event}

theorem pollLoop_ranIo_of_waitMisses (n : Nat) (h : s.waitMisses 7 false k s.cfg.pollBudget) :
    pollLoop (n + 1) (s.ranIo k e) =
      .ok (.timeout, s.ranIo (k + s.cfg.pollBudget) (e ++ s.attempts k s.cfg.pollBudget)) := by
  rw [pollLoop, State.ranIo_cfg, pollBusy_ranIo_of_waitMisses h]
  rfl

/-- Past the poll comes one unit. -/
theorem pollLoop_ranIo_of_waitMeets (n : Nat) (hp : p < s.cfg.pollBudget) (h : s.waitMeets 7 false k p) :
    pollLoop (n + 1) (s.ranIo k e) =
      MemOut.andThen (transfer (s.ranIo (k + p + 1) (e ++ s.attempts k (p + 1)))) fun u =>
        if u.remaining = 0#32 then .ok (transferFinish u) else pollLoop n (wait400 u) := by
  rw [pollLoop, State.ranIo_cfg, pollBusy_ranIo_of_waitMeets hp h, andThenMem_ok]

/-- The last unit is followed by the delay, the poll and the finish check. -/
theorem pollLoop_ranIo_of_last_unit {u : State} {d j : Nat} {f : List Event} (n : Nat) (hp : p < s.cfg.pollBudget)
    (h : s.waitMeets 7 false k p) (hd : k + p + 1 = d)
    (hunit : transfer (s.ranIo d (e ++ s.attempts k (p + 1))) = .ok (.ok, u.ranIo j f))
    (hrem : u.remaining = 0#32) :
    pollLoop (n + 1) (s.ranIo k e) =
      .ok (pollFinish (u.ranIo (j + u.cfg.wait400Reads) (f ++ u.altReads j u.cfg.wait400Reads))) := by
  rw [pollLoop_ranIo_of_waitMeets n hp h, hd, hunit, ← wait400_ranIo]
  exact if_pos hrem

end

/-! ### The cursor of the command in flight (R234, R237) -/

theorem selectOpcode_isRead (d : Descriptor) (dir : Dir) :
    (tagOf (selectOpcode d dir)).isRead = decide (dir = .read) := by
  cases dir <;> simp only [selectOpcode] <;> split <;> rfl

theorem unitSectors_inCommand (s : State) (dir : Dir) (buf : Addr) (count : DWord) :
    unitSectors (s.inCommand dir buf count) = firstUnit s.desc count := by
  have hmul : (s.inCommand dir buf count).tag.isMultiple = multipleOn s.desc := selectOpcode_isMultiple s.desc dir
  rw [unitSectors, hmul]
  rfl

theorem unitWords_inCommand (s : State) (dir : Dir) (buf : Addr) (count : DWord) :
    unitWords (s.inCommand dir buf count) = firstUnit s.desc count * s.desc.sectorSize.toNat := by
  rw [unitWords, unitSectors_inCommand]
  rfl

/-- A command of at most one unit moves all its sectors with it. -/
theorem firstUnit_of_one_unit {d : Descriptor} {count : DWord} (hne : count ≠ 0#32)
    (hle : count.toNat ≤ if multipleOn d then d.currentMultipleSectorSize.toNat else 1) :
    firstUnit d count = count.toNat := by
  have hpos : count.toNat ≠ 0 := fun h0 => hne (BitVec.eq_of_toNat_eq h0)
  unfold firstUnit
  split at hle
  · next hm => rw [if_pos hm, Nat.min_eq_left hle]
  · next hm => rw [if_neg hm]; omega

/-- The cursor past the unit of a one-unit command: at the end of the buffer, nothing remaining. -/
theorem advanceCursor_inCommand {s t : State} {dir : Dir} {buf : Addr} {start count : DWord}
    (hargs : argsOk s.cfg s.desc buf start count = true)
    (hle : count.toNat ≤ if multipleOn s.desc then s.desc.currentMultipleSectorSize.toNat else 1)
    (hcfg : t.cfg = s.cfg) :
    advanceCursor (s.inCommand dir buf count) t =
      t.setCursor (buf + BitVec.ofNat 64 (2 * (count.toNat * s.desc.sectorSize.toNat))) 0#32 := by
  have hone := firstUnit_of_one_unit (count_ne_zero_of_argsOk hargs) hle
  have htop := buffer_lt_of_argsOk hargs
  rw [advanceCursor, unitWords_inCommand, unitSectors_inCommand, hone, hcfg]
  change t.setCursor (toPtr s.cfg (buf.toNat + _)) (BitVec.ofNat 32 (count.toNat - count.toNat)) = _
  rw [toPtr_of_lt htop, Nat.sub_self, BitVec.ofNat_add, BitVec.ofNat_toNat, BitVec.setWidth_eq]

/-! ### The end of a polled transfer (R224, R236) -/

/-- The three ends of a transfer whose last unit has moved, as an instruction shows them. -/
theorem polledEnds {i : Instr} {s u : State} {e : Nat} {sent : List Event}
    (h : exec i s = finishMem (.ok (pollFinish (u.ranIo e sent)))) :
    (∀ q, u.finishMeets e q →
      exec i s = .next ((u.ranIo (e + q + 2) (sent ++ u.finishEvents e q)).endCommand.setResult
        (if statusFailed (u.nextByte (e + q + 1)) then .deviceError else .ok) .none)) ∧
    (u.waitMisses 7 false e u.cfg.pollBudget →
      exec i s = .next ((u.ranIo (e + u.cfg.pollBudget) (sent ++ u.attempts e u.cfg.pollBudget)).setResult
        .timeout .none)) ∧
    (∀ q, q < u.cfg.pollBudget → u.waitMeets 7 false e q → statusIdle (u.nextByte (e + q + 1)) = false →
      exec i s = .next ((u.ranIo (e + q + 2) (sent ++ u.finishEvents e q)).setResult .protocolViolation .none)) := by
  refine ⟨fun q hq => ?_, fun hq => ?_, fun q hlt hq hidle => ?_⟩ <;> rw [h]
  · rw [pollFinish_of_finishMeets hq]
    rfl
  · rw [pollFinish_ranIo_of_waitMisses hq]
    rfl
  · rw [pollFinish_of_not_idle hlt hq hidle]
    rfl

/-! ### The statements -/

/-- Settles O35: the immediate error check decides, then the mode. -/
theorem transferIssueCompletes : Obligations.TransferIssueCompletes := by
  intro i s dir buf start count a b c hreq hi ht hargs hready k u
  rw [exec_of_transferRequest hreq]
  refine ⟨fun hissue he => ?_, fun herr => ?_⟩
  · rw [issueRW_of_issueMeets hi ht hargs hready hissue]
    exact congrArg finishMem (if_pos he)
  · rw [issueRW_of_error hi ht hargs hready herr]
    rfl

/-- Settles O40: the first pass of the data phase moves the one unit, and the end follows. -/
theorem polledReadOneUnitCompletes : Obligations.PolledReadOneUnitCompletes := by
  intro i s buf start count a b c p w k d n e sent hreq hi ht he hargs hready hissue hp hmeets hb hd hle hm hadm
  have hcount := firstUnit_of_one_unit (count_ne_zero_of_argsOk hargs) hle
  have hwords : unitWords (s.inCommand .read buf count) = n := by rw [unitWords_inCommand, hcount]
  have hunit := transfer_ranIo_in (s := s.inCommand .read buf count) (k := d)
    (e := s.commandEvents .read start count a b c ++ s.attempts (k + w + 1) (p + 1)) (selectOpcode_isData _ _)
    (count_ne_zero_of_argsOk hargs) hb hd (selectOpcode_isRead _ _) (by rwa [hwords])
  rw [hwords, advanceCursor_inCommand hargs hle] at hunit
  on_goal 2 => rfl
  refine ⟨_, Memory.stored_storeWords _ _ hm, ?_⟩
  intro moved held
  refine polledEnds (u := held moved) ?_
  rw [exec_of_transferRequest hreq, issueRW_polled hi ht hargs hready hissue he]
  exact congrArg finishMem (pollLoop_ranIo_of_last_unit (u := held moved) _ hp hmeets (by omega) hunit rfl)

/-- Settles O41: the same, with memory only read. -/
theorem polledWriteOneUnitCompletes : Obligations.PolledWriteOneUnitCompletes := by
  intro i s buf start count a b c p w k d n e sent held hreq hi ht he hargs hready hissue hp hmeets hb hd hle hadm
  have hcount := firstUnit_of_one_unit (count_ne_zero_of_argsOk hargs) hle
  have hwords : unitWords (s.inCommand .write buf count) = n := by rw [unitWords_inCommand, hcount]
  have hunit := transfer_ranIo_out (s := s.inCommand .write buf count) (k := d)
    (e := s.commandEvents .write start count a b c ++ s.attempts (k + w + 1) (p + 1)) (selectOpcode_isData _ _)
    (count_ne_zero_of_argsOk hargs) hb hd (selectOpcode_isRead _ _) (by rwa [hwords])
  rw [hwords, advanceCursor_inCommand hargs hle] at hunit
  on_goal 2 => rfl
  refine polledEnds (u := held s) ?_
  rw [exec_of_transferRequest hreq, issueRW_polled hi ht hargs hready hissue he]
  exact congrArg finishMem (pollLoop_ranIo_of_last_unit (u := held s) _ hp hmeets (by omega) hunit rfl)

end Sys2Proof.Machine

/-! Proofs about the polled data phase with any number of units (spec/42_command_transfer.md R236): what waits do, the words
that a list of events moves, the units that a run has moved (`Moved`), and the loop over them. -/

namespace Sys2Proof.Machine

/-! ### Waits -/

/-- An event of a wait: a byte read or a delay. -/
def isWaitEvent : Event → Bool
  | .portRead8 _ _ | .ioDelay => true
  | _ => false

/-- `t` is `s` after waits only. -/
def Waits (s t : State) : Prop := ∃ n evs, t = s.ranIo n evs ∧ ∀ e ∈ evs, isWaitEvent e = true

theorem Waits.refl (s : State) : Waits s s := ⟨0, [], s.ranIo_zero.symm, List.forall_mem_nil _⟩

theorem Waits.trans {s t u : State} (h₁ : Waits s t) (h₂ : Waits t u) : Waits s u := by
  obtain ⟨n, a, rfl, ha⟩ := h₁
  obtain ⟨m, b, rfl, hb⟩ := h₂
  exact ⟨n + m, a ++ b, State.ranIo_ranIo .., List.forall_mem_append.2 ⟨ha, hb⟩⟩

theorem portRead8_waits (p : Port) (s : State) : Waits s (portRead8 p s).2 :=
  ⟨1, [.portRead8 (portAddr s.cfg p) (s.nextByte 0)], congrArg Prod.snd (portRead8_eq p s),
    List.forall_mem_singleton.2 rfl⟩

theorem ioDelay_waits (s : State) : Waits s (ioDelay s) :=
  ⟨0, [.ioDelay], emit_eq s .ioDelay, List.forall_mem_singleton.2 rfl⟩

theorem altStatusReads_waits (n : Nat) (s : State) : Waits s (altStatusReads n s) := by
  induction n generalizing s with
  | zero => exact .refl s
  | succ n ih => exact (portRead8_waits _ s).trans (ih _)

theorem wait400_waits (s : State) : Waits s (wait400 s) := altStatusReads_waits _ s

theorem waitBit_waits (bit : Nat) (target : Bool) (n : Nat) (s : State) : Waits s (waitBit bit target n s).2 := by
  induction n generalizing s with
  | zero => exact .refl s
  | succ n ih =>
    have hread := portRead8_waits .altStatus s
    simp only [waitBit]
    split
    · exact hread
    · split
      · exact hread
      · exact (hread.trans (ioDelay_waits _)).trans (ih _)

theorem pollBusy_waits (n : Nat) (s : State) : Waits s (pollBusy n s).2 := waitBit_waits _ _ _ _

theorem Waits.andThen {s : State} {r : OpOut} {k : State → OpOut} (h : Waits s r.2) (hk : ∀ u, Waits u (k u).2) :
    Waits s (OpOut.andThen r k).2 := by
  obtain ⟨_, he⟩ | ⟨_, he⟩ := andThen_cases r k
  · rwa [he]
  · rw [he]
    exact h.trans (hk _)

theorem checkReady_waits (s : State) : Waits s (checkReady s).2 :=
  .andThen (waitBit_waits _ _ _ _) fun _ => .andThen (waitBit_waits _ _ _ _) fun _ => waitBit_waits _ _ _ _

/-- The end of a polled transfer: only the poll times out, and only a finish check on an idle status answers OK. -/
theorem transferFinish_cases (s : State) :
    ((transferFinish s).1 ≠ .ok ∧ Waits s (transferFinish s).2) ∨
    ((transferFinish s).1 ≠ .timeout ∧ ∃ u, Waits s u ∧ (transferFinish s).2 = u.endCommand) := by
  unfold transferFinish pollFinish
  have hpoll := (wait400_waits s).trans (pollBusy_waits (wait400 s).cfg.pollBudget (wait400 s))
  obtain ⟨hne, he⟩ | ⟨_, he⟩ := andThen_cases (pollBusy (wait400 s).cfg.pollBudget (wait400 s)) finishCheck
  · rw [he]
    exact .inl ⟨hne, hpoll⟩
  · rw [he]
    have hread := hpoll.trans (portRead8_waits .altStatus _)
    simp only [finishCheck]
    split
    · exact .inr ⟨failedOr_ne nofun nofun, _, hread, rfl⟩
    · exact .inl ⟨ResultCode.noConfusion, hread⟩

/-! ### The words a list of events moves (R72) -/

theorem dataWordsIn_append (a b : List Event) : dataWordsIn (a ++ b) = dataWordsIn a ++ dataWordsIn b := by
  induction a with
  | nil => rfl
  | cons e es ih => cases e <;> simp [dataWordsIn, ih]

theorem dataWordsOut_append (a b : List Event) : dataWordsOut (a ++ b) = dataWordsOut a ++ dataWordsOut b := by
  induction a with
  | nil => rfl
  | cons e es ih => cases e <;> simp [dataWordsOut, ih]

/-- Both lists of words are empty: no access of the Data register. -/
def NoData (evs : List Event) : Prop := dataWordsIn evs = [] ∧ dataWordsOut evs = []

theorem NoData.append {a b : List Event} (ha : NoData a) (hb : NoData b) : NoData (a ++ b) := by
  rw [NoData, dataWordsIn_append, dataWordsOut_append, ha.1, ha.2]
  exact hb

theorem NoData.cons {e : Event} {evs : List Event} (he : NoData [e]) (h : NoData evs) : NoData (e :: evs) :=
  he.append h

theorem noData_of_waits {evs : List Event} (h : ∀ e ∈ evs, isWaitEvent e = true) : NoData evs := by
  induction evs with
  | nil => exact ⟨rfl, rfl⟩
  | cons e es ih =>
    obtain ⟨he, hes⟩ := List.forall_mem_cons.1 h
    refine .cons ?_ (ih hes)
    cases e with
    | portRead8 | ioDelay => exact ⟨rfl, rfl⟩
    | _ => cases he

theorem noData_imageEvents (c : Config) (ws : List (Port × Byte)) : NoData (imageEvents c ws) := by
  induction ws with
  | nil => exact ⟨rfl, rfl⟩
  | cons w ws ih => exact .cons ⟨rfl, rfl⟩ ih

theorem noData_altReads (s : State) (k n : Nat) : NoData (s.altReads k n) :=
  noData_of_waits (List.forall_mem_map.2 fun _ _ => rfl)

/-- The burst of a unit from the device reads its words and writes none. -/
theorem dataWords_unitInEvents (s : State) (k a n : Nat) :
    dataWordsIn (s.unitInEvents k a n) = s.nextWords k n ∧ dataWordsOut (s.unitInEvents k a n) = [] := by
  induction n generalizing k a with
  | zero => exact ⟨rfl, rfl⟩
  | succ n ih =>
    rw [State.unitInEvents_succ, State.nextWords_succ]
    exact ⟨congrArg (_ :: ·) (ih _ _).1, (ih _ _).2⟩

theorem Memory.words_succ (m : Memory) (a n : Nat) :
    Memory.words m a (n + 1) = Memory.word m a :: Memory.words m (a + 2) n := by
  have hplace : ∀ j, a + 2 * (j + 1) = a + 2 + 2 * j := fun j => by omega
  simp [Memory.words, List.range_succ_eq_map, hplace]

theorem Memory.words_length (m : Memory) (a n : Nat) : (Memory.words m a n).length = n := by
  simp [Memory.words]

/-- The burst of a unit to the device writes the words of memory and reads none. -/
theorem dataWords_unitOutEvents (s : State) (a n : Nat) :
    dataWordsIn (s.unitOutEvents a n) = [] ∧ dataWordsOut (s.unitOutEvents a n) = Memory.words s.mem a n := by
  induction n generalizing a with
  | zero => exact ⟨rfl, rfl⟩
  | succ n ih =>
    rw [State.unitOutEvents_succ, Memory.words_succ]
    exact ⟨(ih _).1, congrArg (_ :: ·) (ih _).2⟩

theorem Memory.words_add (m : Memory) (a n k : Nat) :
    Memory.words m a (n + k) = Memory.words m a n ++ Memory.words m (a + 2 * n) k := by
  induction n generalizing a with
  | zero => simp [Memory.words]
  | succ n ih =>
    have hplace : a + 2 * (n + 1) = a + 2 + 2 * n := by omega
    rw [Nat.add_right_comm, Memory.words_succ, Memory.words_succ, ih, hplace]
    rfl

theorem Memory.storeWords_append (m : Memory) (a : Nat) (xs ys : List Word) :
    Memory.storeWords m a (xs ++ ys) = Memory.storeWords (Memory.storeWords m a xs) (a + 2 * xs.length) ys := by
  induction xs generalizing m a with
  | nil => rfl
  | cons x xs ih =>
    have hplace : a + 2 * (x :: xs).length = a + 2 + 2 * xs.length := by rw [List.length_cons]; omega
    rw [hplace]
    exact ih _ _

/-- Words that were stored read back in order. -/
theorem Memory.words_storeWords {m : Memory} (hm : Memory.wf m = true) (a : Nat) (ws : List Word) :
    Memory.words (Memory.storeWords m a ws) a ws.length = ws := by
  refine List.ext_getElem (Memory.words_length _ _ _) fun j hj hj' => ?_
  obtain ⟨hlo, hhi⟩ := Memory.read_storeWords hm (a := a) (List.getElem?_eq_getElem hj')
  simp only [Memory.words, List.getElem_map, List.getElem_range, Memory.word, hlo, hhi]
  exact word_bytes _

/-! ### Units that have moved (R235, R237) -/

/-- The number of words a list of events moves through the Data register. -/
def wordsMoved (evs : List Event) : Nat := (dataWordsIn evs).length + (dataWordsOut evs).length

theorem wordsMoved_append (a b : List Event) : wordsMoved (a ++ b) = wordsMoved a + wordsMoved b := by
  simp only [wordsMoved, dataWordsIn_append, dataWordsOut_append, List.length_append]
  omega

theorem wordsMoved_of_noData {evs : List Event} (h : NoData evs) : wordsMoved evs = 0 := by
  rw [wordsMoved, h.1, h.2]
  rfl

/-- The words that `evs` moved for the command of `s` went, in order, from the device into memory at the cursor, which made
it `m`, or from there to the device. -/
structure Delivered (s : State) (m : Memory) (evs : List Event) : Prop where
  read : s.tag.isRead = true →
    dataWordsOut evs = [] ∧ m = Memory.storeWords s.mem s.cursorPtr.toNat (dataWordsIn evs)
  write : s.tag.isRead = false → dataWordsIn evs = [] ∧ m = s.mem ∧
    dataWordsOut evs = Memory.words s.mem s.cursorPtr.toNat (dataWordsOut evs).length

/-- From `s` to `t` the events `evs` moved whole units of the command in flight, and nothing else but waits happened; the
cursor stands past the words moved. -/
structure Moved (s t : State) (evs : List Event) : Prop where
  run : ∃ m p r k, t = ((s.withMem m).setCursor p r).ranIo k evs
  cursor : t.cursorPtr.toNat = s.cursorPtr.toNat + 2 * wordsMoved evs
  remaining : t.remaining.toNat * s.desc.sectorSize.toNat + wordsMoved evs =
    s.remaining.toNat * s.desc.sectorSize.toNat
  delivered : Delivered s t.mem evs

/-- The rest of the buffer lies below the top of the address space (R239). -/
def State.bufferFits (s : State) : Prop :=
  s.cursorPtr.toNat + 2 * (s.remaining.toNat * s.desc.sectorSize.toNat) < 2 ^ s.cfg.ptrWidth.bits

section

variable {s t u : State} {a b : List Event}

theorem Moved.tag_eq (h : Moved s t a) : t.tag = s.tag := by
  obtain ⟨_, _, _, _, rfl⟩ := h.run
  rfl

theorem Moved.desc_eq (h : Moved s t a) : t.desc = s.desc := by
  obtain ⟨_, _, _, _, rfl⟩ := h.run
  rfl

theorem Moved.cfg_eq (h : Moved s t a) : t.cfg = s.cfg := by
  obtain ⟨_, _, _, _, rfl⟩ := h.run
  rfl

theorem Moved.addsEvents (h : Moved s t a) : AddsEvents s t a := by
  obtain ⟨_, _, _, _, rfl⟩ := h.run
  rfl

theorem Moved.admits_eq (h : Moved s t a) (x : Nat) : t.admits x = s.admits x := by
  obtain ⟨_, _, _, _, rfl⟩ := h.run
  rfl

theorem Delivered.of_noData (h : NoData a) : Delivered s s.mem a := by
  obtain ⟨hin, hout⟩ := h
  exact ⟨fun _ => ⟨hout, by rw [hin]; rfl⟩, fun _ => ⟨hin, rfl, by rw [hout]; rfl⟩⟩

/-- A write keeps memory. -/
theorem Delivered.mem_eq_of_write {m : Memory} (h : Delivered s m a) (hread : s.tag.isRead = false) : m = s.mem :=
  (h.write hread).2.1

/-- A byte outside the words at the cursor keeps its value. -/
theorem Delivered.read_of_outside {m : Memory} {x : Nat} (h : Delivered s m a) (hm : Memory.wf s.mem = true)
    (hx : x < s.cursorPtr.toNat ∨ s.cursorPtr.toNat + 2 * wordsMoved a ≤ x) : Memory.read m x = Memory.read s.mem x := by
  cases hread : s.tag.isRead with
  | false => rw [h.mem_eq_of_write hread]
  | true =>
    obtain ⟨hout, rfl⟩ := h.read hread
    have hcount : wordsMoved a = (dataWordsIn a).length := by rw [wordsMoved, hout]; rfl
    exact Memory.read_storeWords_of_outside _ hm (hcount ▸ hx)

theorem Moved.of_waits {n : Nat} (h : ∀ e ∈ a, isWaitEvent e = true) : Moved s (s.ranIo n a) a := by
  have hnone := noData_of_waits h
  have hzero := wordsMoved_of_noData hnone
  exact
    { run := ⟨s.mem, s.cursorPtr, s.remaining, n, rfl⟩
      cursor := by rw [hzero]; rfl
      remaining := by rw [hzero]; rfl
      delivered := .of_noData hnone }

theorem Waits.moved (h : Waits s t) : ∃ evs, Moved s t evs := by
  obtain ⟨n, evs, rfl, hevs⟩ := h
  exact ⟨evs, .of_waits hevs⟩

theorem Moved.trans (h₁ : Moved s t a) (h₂ : Moved t u b) : Moved s u (a ++ b) where
  run := by
    obtain ⟨m, p, r, k, rfl⟩ := h₁.run
    obtain ⟨m', p', r', k', hu⟩ := h₂.run
    exact ⟨m', p', r', k + k', hu.trans (State.ranIo_ranIo ((s.withMem m').setCursor p' r') k k' a b)⟩
  cursor := by
    rw [h₂.cursor, h₁.cursor, wordsMoved_append]
    omega
  remaining := by
    have hrem := h₂.remaining
    rw [h₁.desc_eq] at hrem
    rw [wordsMoved_append, ← h₁.remaining, ← hrem]
    omega
  delivered :=
    { read := fun hread => by
        obtain ⟨hout, hmem⟩ := h₁.delivered.read hread
        obtain ⟨hout', hmem'⟩ := h₂.delivered.read (h₁.tag_eq ▸ hread)
        have hcount : wordsMoved a = (dataWordsIn a).length := by rw [wordsMoved, hout]; rfl
        rw [dataWordsOut_append, hout, hout', dataWordsIn_append, Memory.storeWords_append, ← hcount, ← h₁.cursor,
          ← hmem]
        exact ⟨rfl, hmem'⟩
      write := fun hread => by
        obtain ⟨hin, hmem, hout⟩ := h₁.delivered.write hread
        obtain ⟨hin', hmem', hout'⟩ := h₂.delivered.write (h₁.tag_eq ▸ hread)
        have hcount : wordsMoved a = (dataWordsOut a).length := by rw [wordsMoved, hin]; exact Nat.zero_add _
        rw [h₁.cursor, hcount, hmem] at hout'
        rw [dataWordsIn_append, dataWordsOut_append, hin, hin', List.length_append, Memory.words_add, ← hout, ← hout']
        exact ⟨rfl, hmem'.trans hmem, rfl⟩ }

/-- The cursor moves on within the same buffer. -/
theorem Moved.bufferFits (h : Moved s t a) (hfit : s.bufferFits) : t.bufferFits := by
  have hcur := h.cursor
  have hrem := h.remaining
  unfold State.bufferFits at hfit ⊢
  rw [h.desc_eq, h.cfg_eq]
  omega

/-- What is admitted of the buffer stays admitted. -/
theorem Moved.admitsRange (h : Moved s t a)
    (hadm : s.admitsRange s.cursorPtr.toNat (2 * (s.remaining.toNat * s.desc.sectorSize.toNat))) :
    t.admitsRange t.cursorPtr.toNat (2 * (t.remaining.toNat * t.desc.sectorSize.toNat)) := by
  intro k hk
  have hrem := h.remaining
  rw [h.desc_eq] at hk
  rw [h.admits_eq, h.cursor, Nat.add_assoc]
  exact hadm _ (by omega)

end

end Sys2Proof.Machine

/-! Proofs about reads and writes of any number of units (spec/42_command_transfer.md R225, R235, R236): what one unit
transfer and the loop over them can do, and what an issued command leaves to the loop. -/

namespace Sys2Proof.Machine

/-! ### One unit (R235) -/

/-- A unit is at most the sectors that remain (R234). -/
theorem unitSectors_le {s : State} (h : s.remaining ≠ 0#32) : unitSectors s ≤ s.remaining.toNat := by
  have hpos : s.remaining.toNat ≠ 0 := fun h0 => h (BitVec.eq_of_toNat_eq h0)
  unfold unitSectors
  split <;> omega

theorem unitWords_le {s : State} (h : s.remaining ≠ 0#32) :
    unitWords s ≤ s.remaining.toNat * s.desc.sectorSize.toNat := Nat.mul_le_mul_right _ (unitSectors_le h)

/-- From `s` to `t` one unit of the command in flight moved, with the events `evs`. -/
def UnitMoved (s t : State) (evs : List Event) : Prop :=
  ∃ m k, t = advanceCursor s ((s.withMem m).ranIo k evs) ∧ wordsMoved evs = unitWords s ∧ Delivered s m evs

section

variable {s : State} (p : Word) (b : Byte) (k n : Nat)

/-- A status read and a burst from the device. -/
theorem delivered_unitIn (hread : s.tag.isRead = true) :
    wordsMoved (.portRead8 p b :: s.unitInEvents k s.cursorPtr.toNat n) = n ∧
    Delivered s (Memory.storeWords s.mem s.cursorPtr.toNat (s.nextWords k n))
      (.portRead8 p b :: s.unitInEvents k s.cursorPtr.toNat n) := by
  obtain ⟨hin, hout⟩ := dataWords_unitInEvents s k s.cursorPtr.toNat n
  have hin' : dataWordsIn (.portRead8 p b :: s.unitInEvents k s.cursorPtr.toNat n) = s.nextWords k n := hin
  have hout' : dataWordsOut (.portRead8 p b :: s.unitInEvents k s.cursorPtr.toNat n) = [] := hout
  refine ⟨?_, fun _ => ⟨hout', by rw [hin']⟩, fun hwrite => absurd hread (ne_true_of_eq_false hwrite)⟩
  rw [wordsMoved, hin', hout', State.nextWords_length]
  rfl

/-- A status read and a burst to the device. -/
theorem delivered_unitOut (hread : s.tag.isRead = false) :
    wordsMoved (.portRead8 p b :: s.unitOutEvents s.cursorPtr.toNat n) = n ∧
    Delivered s s.mem (.portRead8 p b :: s.unitOutEvents s.cursorPtr.toNat n) := by
  obtain ⟨hin, hout⟩ := dataWords_unitOutEvents s s.cursorPtr.toNat n
  have hin' : dataWordsIn (.portRead8 p b :: s.unitOutEvents s.cursorPtr.toNat n) = [] := hin
  have hout' : dataWordsOut (.portRead8 p b :: s.unitOutEvents s.cursorPtr.toNat n) =
    Memory.words s.mem s.cursorPtr.toNat n := hout
  refine ⟨?_, fun hr => absurd hr (ne_true_of_eq_false hread), fun _ => ⟨hin', rfl, ?_⟩⟩
  · rw [wordsMoved, hin', hout', Memory.words_length]
    exact Nat.zero_add n
  · rw [hout', Memory.words_length]

end

section

variable {s : State} (hdata : s.tag.isData = true) (hrem : s.remaining ≠ 0#32)

include hdata hrem

/-- On admitted memory a unit that the device asks for moves, in either direction. -/
theorem transfer_of_drq (hb : statusBsy (s.nextByte 0) = false) (hd : statusDrq (s.nextByte 0) = true)
    (hadm : s.admitsRange s.cursorPtr.toNat (2 * unitWords s)) :
    ∃ u evs, transfer s = .ok (.ok, u) ∧ UnitMoved s u evs := by
  have hin := transfer_ranIo_in (e := []) hdata hrem hb hd
  have hout := transfer_ranIo_out (e := []) hdata hrem hb hd
  simp only [State.ranIo_zero] at hin hout
  cases hread : s.tag.isRead with
  | true => exact ⟨_, _, hin hread hadm, _, _, rfl, delivered_unitIn _ _ _ _ hread⟩
  | false => exact ⟨_, _, hout hread hadm, s.mem, _, rfl, delivered_unitOut _ _ _ hread⟩

/-- What the status read makes of a unit that is due. -/
theorem transfer_of_due :
    (∃ c u v, transfer s = .ok (c, u) ∧ (c ≠ .ok ∧ c ≠ .timeout) ∧ Waits s v ∧ (u = v ∨ u = v.endCommand)) ∨
    (statusBsy (s.nextByte 0) = false ∧ statusDrq (s.nextByte 0) = true) := by
  have hbusy := transfer_ranIo_of_busy (k := 0) (e := []) hdata hrem
  have hnoDrq := transfer_ranIo_of_no_drq (k := 0) (e := []) hdata hrem
  simp only [State.ranIo_zero] at hbusy hnoDrq
  have hwait : Waits s (s.ranIo 1 [s.altRead 0]) := ⟨1, _, rfl, List.forall_mem_singleton.2 rfl⟩
  cases hb : statusBsy (s.nextByte 0) with
  | true => exact .inl ⟨_, _, _, hbusy hb, ⟨ResultCode.noConfusion, ResultCode.noConfusion⟩, hwait, .inl rfl⟩
  | false =>
    cases hd : statusDrq (s.nextByte 0) with
    | true => exact .inr ⟨rfl, rfl⟩
    | false =>
      exact .inl ⟨_, _, _, hnoDrq hb hd, ⟨failedOr_ne nofun nofun, failedOr_ne nofun nofun⟩, hwait, .inr rfl⟩

end

/-- What `transfer` can do: without a unit it only waits, and may end the command; else it moves one unit, where memory
admits it. -/
theorem transfer_cases (s : State) :
    (∃ c u v, transfer s = .ok (c, u) ∧ (c ≠ .ok ∧ c ≠ .timeout) ∧ Waits s v ∧ (u = v ∨ u = v.endCommand)) ∨
    (s.remaining ≠ 0#32 ∧
      ((∃ u evs, transfer s = .ok (.ok, u) ∧ UnitMoved s u evs) ∨
        ((∃ f, transfer s = .error f) ∧ ¬ s.admitsRange s.cursorPtr.toNat (2 * unitWords s)))) := by
  by_cases hnone : s.tag.isData = false ∨ s.remaining = 0#32
  · exact .inl ⟨_, _, _, transfer_of_none_due hnone, ⟨ResultCode.noConfusion, ResultCode.noConfusion⟩, .refl s, .inl rfl⟩
  · obtain ⟨hdata, hrem⟩ := not_or.1 hnone
    rw [Bool.not_eq_false] at hdata
    obtain hexit | ⟨hb, hd⟩ := transfer_of_due hdata hrem
    · exact .inl hexit
    · refine .inr ⟨hrem, ?_⟩
      obtain hadm | ⟨j, hj, hadm, hbad⟩ := s.admitsRange_or_first s.cursorPtr.toNat (unitWords s)
      · exact .inl (transfer_of_drq hdata hrem hb hd hadm)
      · have hstuck := transfer_ranIo_stuck (e := []) hdata hrem hb hd hj hadm hbad
        rw [State.ranIo_zero] at hstuck
        refine .inr ⟨⟨_, hstuck⟩, fun hall => ?_⟩
        have hlo := hall (2 * j) (by omega)
        have hhi := hall (2 * j + 1) (by omega)
        rw [← Nat.add_assoc] at hhi
        rw [hlo, hhi] at hbad
        exact Bool.noConfusion hbad

/-- Within the buffer a unit moves the cursor by what it moved. -/
theorem UnitMoved.moved {s t : State} {evs : List Event} (h : UnitMoved s t evs) (hrem : s.remaining ≠ 0#32)
    (hfit : s.bufferFits) : Moved s t evs := by
  obtain ⟨m, k, rfl, hcount, hdel⟩ := h
  have hle := unitWords_le hrem
  have hsectors := unitSectors_le hrem
  have htop : s.cursorPtr.toNat + 2 * unitWords s < 2 ^ s.cfg.ptrWidth.bits := by
    unfold State.bufferFits at hfit
    omega
  have h64 : 2 ^ s.cfg.ptrWidth.bits ≤ 2 ^ 64 := Nat.pow_le_pow_right (by decide) (ptrWidth_bits_le _)
  rw [advanceCursor_eq_pastUnit htop]
  on_goal 2 => rfl
  refine ⟨⟨m, _, _, k, rfl⟩, ?_, ?_, hdel⟩
  · change (BitVec.ofNat 64 _).toNat = _
    rw [hcount, BitVec.toNat_ofNat, Nat.mod_eq_of_lt (htop.trans_le h64)]
  · change (BitVec.ofNat 32 _).toNat * _ + _ = _
    have hlt : s.remaining.toNat - unitSectors s < 2 ^ 32 := (Nat.sub_le _ _).trans_lt s.remaining.isLt
    rw [hcount, BitVec.toNat_ofNat, Nat.mod_eq_of_lt hlt, unitWords, ← Nat.add_mul, Nat.sub_add_cancel hsectors]

/-! ### The loop over the units (R236) -/

/-- The end of a polled data phase: it timed out or gave up with the command still active, or it ended the command; it
answers OK only where nothing remained to be moved. -/
def PolledEnd (s : State) (c : ResultCode) (t : State) : Prop :=
  ∃ u evs, Moved s u evs ∧
    ((t = u ∧ c ≠ .ok) ∨ (t = u.endCommand ∧ c ≠ .timeout ∧ (c = .ok → u.remaining = 0#32)))

theorem Moved.polledEnd {s u t : State} {a : List Event} {c : ResultCode} (h : Moved s u a) (hend : PolledEnd u c t) :
    PolledEnd s c t := by
  obtain ⟨v, b, hb, hcase⟩ := hend
  exact ⟨v, a ++ b, h.trans hb, hcase⟩

theorem Waits.polledEnd_kept {s t : State} {c : ResultCode} (h : Waits s t) (hc : c ≠ .ok) : PolledEnd s c t := by
  obtain ⟨evs, hmoved⟩ := h.moved
  exact ⟨t, evs, hmoved, .inl ⟨rfl, hc⟩⟩

theorem transferFinish_polledEnd {s : State} (hrem : s.remaining = 0#32) :
    PolledEnd s (transferFinish s).1 (transferFinish s).2 := by
  obtain ⟨hc, hwait⟩ | ⟨hc, u, hwait, he⟩ := transferFinish_cases s
  · exact hwait.polledEnd_kept hc
  · obtain ⟨n, evs, rfl, hevs⟩ := hwait
    exact ⟨_, evs, .of_waits hevs, .inr ⟨he, hc, fun _ => hrem⟩⟩

theorem memAndThen_of_not_ok {c : ResultCode} (hc : c ≠ .ok) (s : State) (k : State → MemOut) :
    MemOut.andThen (.ok (c, s)) k = .ok (c, s) := by
  obtain ⟨_, he⟩ | ⟨hok, _⟩ := andThenMem_cases (c, s) k
  · exact he
  · exact absurd hok hc

/-- Where memory admits what remains of the buffer. -/
def State.restAdmitted (s : State) : Prop :=
  s.admitsRange s.cursorPtr.toNat (2 * (s.remaining.toNat * s.desc.sectorSize.toNat))

/-- How the data phase ends from `s` on: it answers, or it is stuck at memory that is not admitted. -/
def PollOutcome (s : State) (r : MemOut) : Prop :=
  (∃ c t, r = .ok (c, t) ∧ PolledEnd s c t) ∨ ((∃ f, r = .error f) ∧ ¬ s.restAdmitted)

theorem Moved.pollOutcome {s u : State} {a : List Event} {r : MemOut} (h : Moved s u a) (hr : PollOutcome u r) :
    PollOutcome s r := by
  obtain ⟨c, t, hok, hend⟩ | ⟨hf, hadm⟩ := hr
  · exact .inl ⟨c, t, hok, h.polledEnd hend⟩
  · exact .inr ⟨hf, fun hrest => hadm (h.admitsRange hrest)⟩

/-- One unit, and what follows it. -/
theorem transfer_pollOutcome {s : State} {k : State → MemOut} (hfit : s.bufferFits)
    (hk : ∀ u, u.bufferFits → PollOutcome u (k u)) : PollOutcome s (MemOut.andThen (transfer s) k) := by
  obtain ⟨c, u, v, htransfer, ⟨hok, htimeout⟩, hwait, hu⟩ | ⟨hrem, ⟨u, b, htransfer, hunit⟩ | ⟨⟨f, hf⟩, hadm⟩⟩ :=
    transfer_cases s
  · rw [htransfer, memAndThen_of_not_ok hok]
    obtain ⟨b, hb⟩ := hwait.moved
    exact .inl ⟨c, u, rfl, v, b, hb, hu.imp (⟨·, hok⟩) (⟨·, htimeout, fun h => absurd h hok⟩)⟩
  · rw [htransfer]
    have hmoved := hunit.moved hrem hfit
    exact hmoved.pollOutcome (hk u (hmoved.bufferFits hfit))
  · rw [hf]
    exact .inr ⟨⟨f, rfl⟩, fun hrest => hadm (State.admitsRange_mono hrest (Nat.mul_le_mul_left 2 (unitWords_le hrem)))⟩

theorem pollLoop_outcome (n : Nat) {s : State} (hfit : s.bufferFits) : PollOutcome s (pollLoop n s) := by
  induction n generalizing s with
  | zero => exact .inl ⟨_, _, rfl, (Waits.refl s).polledEnd_kept ResultCode.noConfusion⟩
  | succ n ih =>
    have hpoll := pollBusy_waits s.cfg.pollBudget s
    rw [pollLoop]
    obtain ⟨hc, he⟩ | ⟨_, he⟩ := andThenMem_cases (pollBusy s.cfg.pollBudget s) _
    · exact .inl ⟨_, _, he, hpoll.polledEnd_kept hc⟩
    · rw [he]
      obtain ⟨a, ha⟩ := hpoll.moved
      refine ha.pollOutcome (transfer_pollOutcome (ha.bufferFits hfit) fun u hu => ?_)
      split
      · next hrem => exact .inl ⟨_, _, rfl, transferFinish_polledEnd hrem⟩
      · obtain ⟨b, hb⟩ := (wait400_waits u).moved
        exact hb.pollOutcome (ih (hb.bufferFits hu))

/-! ### The command before its data phase (R225) -/

/-- The block with a read or write command sent and no data moved yet. -/
def Issued (s : State) (dir : Dir) (buf : Addr) (count : DWord) (u : State) : Prop :=
  ∃ n evs, u = (s.inCommand dir buf count).ranIo n evs ∧ NoData evs

theorem issueImage_issued {s : State} {dir : Dir} {buf : Addr} {start count : DWord}
    (h : toPtr s.cfg buf.toNat = buf) (n : Nat) {e : List Event} (he : NoData e) :
    ∃ u, Issued s dir buf count u ∧
      (immediateErrorCheck (issueImage (selectOpcode s.desc dir) buf start count (s.ranIo n e)) =
          (.deviceError, u.endCommand) ∨
        immediateErrorCheck (issueImage (selectOpcode s.desc dir) buf start count (s.ranIo n e)) = (.ok, u)) := by
  rw [issueImage_ranIo h, immediateErrorCheck_ranIo]
  have hcommand : NoData [commandEvent s.cfg (selectOpcode s.desc dir)] := ⟨rfl, rfl⟩
  have hdata := ((he.append (noData_imageEvents s.cfg (imageRW s.desc.hasLba48 s.selectedDrive start count))).append
    hcommand).append (noData_altReads (s.inCommand dir buf count) n (s.cfg.wait400Reads + 1))
  split
  · exact ⟨_, ⟨_, _, rfl, hdata⟩, .inl rfl⟩
  · exact ⟨_, ⟨_, _, rfl, hdata⟩, .inr rfl⟩

/-- What a read or write can do: it refuses, or never becomes ready; or its command is sent, and an immediate error ends
it, or the mode decides how it goes on. -/
theorem issueRW_cases (dir : Dir) (buf : Addr) (start count : DWord) (s : State) :
    (∃ c t, issueRW dir buf start count s = .ok (c, t) ∧ c ≠ .ok ∧ Waits s t) ∨
    (argsOk s.cfg s.desc buf start count = true ∧ ∃ u, Issued s dir buf count u ∧
      (issueRW dir buf start count s = .ok (.deviceError, u.endCommand) ∨
        issueRW dir buf start count s = if s.intEnabled then .ok (.ok, u) else pollTransfer u)) := by
  by_cases hguard : s.identified = false ∨ s.tag ≠ .none
  · exact .inl ⟨_, _, issueRW_of_refused hguard .., ResultCode.noConfusion, .refl s⟩
  obtain ⟨hi, ht⟩ := not_or.1 hguard
  rw [Bool.not_eq_false] at hi
  rw [not_not] at ht
  cases hargs : argsOk s.cfg s.desc buf start count with
  | false => exact .inl ⟨_, _, issueRW_of_bad_args hi ht hargs, ResultCode.noConfusion, .refl s⟩
  | true =>
    rw [issueRW, commandGuard_of_admitted hi ht, andThenMem_ok, hargs]
    simp only [Bool.not_true, Bool.false_eq_true, if_false]
    obtain ⟨hc, he⟩ | ⟨_, he⟩ := andThenMem_cases (checkReady s) _
    · exact .inl ⟨_, _, he, hc, checkReady_waits s⟩
    · rw [he]
      obtain ⟨n, e, hready, hwait⟩ := checkReady_waits s
      obtain ⟨u, hu, hcheck⟩ := issueImage_issued (dir := dir) (start := start) (count := count) (toPtr_of_argsOk hargs) n
        (noData_of_waits hwait)
      have hmode : u.intEnabled = s.intEnabled := by
        obtain ⟨_, _, rfl, _⟩ := hu
        rfl
      simp only [hready, State.ranIo_desc]
      refine .inr ⟨trivial, u, hu, hcheck.imp (fun herr => ?_) fun hok => ?_⟩
      · rw [herr]
        rfl
      · rw [hok, andThenMem_ok, hmode]

end Sys2Proof.Machine

/-! The statements about reads and writes of any number of units (spec/42_command_transfer.md R225, R235, R236;
spec/20_memory.md R76, R79): that they answer, what they deliver, what a timeout keeps, and the exits before the first unit. -/

namespace Sys2Proof.Machine

/-! ### What an instruction that asks for a transfer can do -/

section

variable {s u : State} {dir : Dir} {buf : Addr} {count : DWord} (h : Issued s dir buf count u)

include h

theorem Issued.bufferFits {start : DWord} (hargs : argsOk s.cfg s.desc buf start count = true) : u.bufferFits := by
  obtain ⟨_, _, rfl, _⟩ := h
  exact buffer_lt_of_argsOk hargs

/-- A data phase after the issue, seen from before the issue: its words are all the words. -/
theorem Issued.moved {v : State} {b : List Event} (hmoved : Moved u v b) :
    ∃ evs, AddsEvents s v evs ∧ dataWordsIn evs = dataWordsIn b ∧ dataWordsOut evs = dataWordsOut b := by
  obtain ⟨n, a, rfl, hin, hout⟩ := h
  refine ⟨a ++ b, (addsEvents_ranIo (s.inCommand dir buf count) n a).trans hmoved.addsEvents, ?_, ?_⟩
  · rw [dataWordsIn_append, hin, List.nil_append]
  · rw [dataWordsOut_append, hout, List.nil_append]

end

/-- A transfer refuses or never becomes ready, or its command is sent; then the data phase ends it, or in interrupt mode it
answers at once. -/
theorem exec_transfer_cases {i : Instr} {s t : State} {dir : Dir} {buf : Addr} {start count : DWord}
    (hreq : transferRequest s.desc i = some (dir, buf, start, count)) (h : exec i s = .next t) :
    ∃ c v, t = v.setResult c .none ∧
      ((c ≠ .ok ∧ Waits s v) ∨
        ∃ u, Issued s dir buf count u ∧ u.bufferFits ∧ (PolledEnd u c v ∨ (s.intEnabled = true ∧ v = u))) := by
  rw [exec_of_transferRequest hreq] at h
  obtain ⟨c, v, he, hc, hwait⟩ | ⟨hargs, u, hu, he | he⟩ := issueRW_cases dir buf start count s
  · rw [he] at h
    cases h
    exact ⟨c, v, rfl, .inl ⟨hc, hwait⟩⟩
  · rw [he] at h
    cases h
    refine ⟨_, _, rfl, .inr ⟨u, hu, hu.bufferFits hargs, .inl ?_⟩⟩
    obtain ⟨a, ha⟩ := (Waits.refl u).moved
    exact ⟨u, a, ha, .inr ⟨rfl, ResultCode.noConfusion, ResultCode.noConfusion⟩⟩
  · cases hmode : s.intEnabled with
    | true =>
      rw [he, hmode] at h
      cases h
      exact ⟨_, _, rfl, .inr ⟨u, hu, hu.bufferFits hargs, .inr ⟨rfl, rfl⟩⟩⟩
    | false =>
      rw [he, hmode] at h
      obtain ⟨c, v, hpoll, hend⟩ | ⟨⟨f, hf⟩, _⟩ := pollLoop_outcome u.remaining.toNat (hu.bufferFits hargs)
      · change finishMem (pollTransfer u) = _ at h
        rw [pollTransfer, hpoll] at h
        cases h
        exact ⟨c, v, rfl, .inr ⟨u, hu, hu.bufferFits hargs, .inl hend⟩⟩
      · change finishMem (pollTransfer u) = _ at h
        rw [pollTransfer, hf] at h
        cases h

/-- A polled transfer that answers OK has ended its command and moved everything. -/
theorem exec_transfer_ok {i : Instr} {s t : State} {dir : Dir} {buf : Addr} {start count : DWord}
    (hreq : transferRequest s.desc i = some (dir, buf, start, count)) (he : s.intEnabled = false)
    (h : exec i s = .next t) (hok : t.result = some ⟨.ok, .none⟩) :
    t.tag = .none ∧ ∃ evs b, AddsEvents s t evs ∧ dataWordsIn evs = dataWordsIn b ∧ dataWordsOut evs = dataWordsOut b ∧
      wordsMoved b = count.toNat * s.desc.sectorSize.toNat ∧
      Delivered (s.inCommand dir buf count) t.mem b := by
  obtain ⟨c, v, rfl, hcase⟩ := exec_transfer_cases hreq h
  obtain rfl : c = .ok := congrArg OpResult.code (Option.some.inj hok)
  obtain ⟨hne, _⟩ | ⟨u, hu, _, ⟨w, b, hmoved, ⟨_, hne⟩ | ⟨rfl, _, hrem⟩⟩ | ⟨hmode, _⟩⟩ := hcase
  · exact absurd rfl hne
  · exact absurd rfl hne
  · obtain ⟨evs, hadds, hin, hout⟩ := hu.moved hmoved
    refine ⟨rfl, evs, b, hadds, hin, hout, ?_, ?_⟩
    · have hsum := hmoved.remaining
      rw [hrem rfl, BitVec.toNat_ofNat, Nat.zero_mod, Nat.zero_mul, Nat.zero_add] at hsum
      obtain ⟨_, _, rfl, _⟩ := hu
      exact hsum
    · obtain ⟨_, _, rfl, _⟩ := hu
      exact ⟨hmoved.delivered.read, hmoved.delivered.write⟩
  · exact absurd hmode (ne_true_of_eq_false he)

/-! ### The statements -/

/-- Settles O38: the words read are those that were stored, one unit after the other. -/
theorem polledReadDelivers : Obligations.PolledReadDelivers := by
  intro i s t buf start count hreq he hm h hok
  obtain ⟨htag, evs, b, hadds, hin, hout, hcount, hdel⟩ := exec_transfer_ok hreq he h hok
  obtain ⟨hnone, hmem⟩ := hdel.read (selectOpcode_isRead _ _)
  have hlength : (dataWordsIn b).length = count.toNat * s.desc.sectorSize.toNat := by
    rw [← hcount, wordsMoved, hnone]
    rfl
  refine ⟨htag, evs, hadds, ?_, hout.trans hnone⟩
  rw [hin, hmem, ← hlength]
  exact (Memory.words_storeWords hm _ _).symm

/-- Settles O39: the words written are those of the buffer, one unit after the other. -/
theorem polledWriteDelivers : Obligations.PolledWriteDelivers := by
  intro i s t buf start count hreq he h hok
  obtain ⟨htag, evs, b, hadds, hin, hout, hcount, hdel⟩ := exec_transfer_ok hreq he h hok
  obtain ⟨hnone, hmem, hwords⟩ := hdel.write (selectOpcode_isRead _ _)
  have hlength : (dataWordsOut b).length = count.toNat * s.desc.sectorSize.toNat := by
    rw [← hcount, wordsMoved, hnone]
    exact (Nat.zero_add _).symm
  refine ⟨htag, hmem, evs, hadds, ?_, hin.trans hnone⟩
  rw [hout, hwords, hlength]
  rfl

/-- Settles O42: the loop is stuck only at memory that is not admitted, and the buffer is. -/
theorem transferAnswersOnAdmittedBuffer : Obligations.TransferAnswersOnAdmittedBuffer := by
  intro i s dir buf start count hreq hadm
  rw [exec_of_transferRequest hreq]
  obtain ⟨c, v, he, _⟩ | ⟨hargs, u, hu, he | he⟩ := issueRW_cases dir buf start count s
  · rw [he]
    exact ⟨_, rfl⟩
  · rw [he]
    exact ⟨_, rfl⟩
  · rw [he]
    split
    · exact ⟨_, rfl⟩
    · obtain ⟨c, v, hpoll, _⟩ | ⟨_, hrest⟩ := pollLoop_outcome u.remaining.toNat (hu.bufferFits hargs)
      · rw [pollTransfer, hpoll]
        exact ⟨_, rfl⟩
      · obtain ⟨_, _, rfl, _⟩ := hu
        rw [Nat.mul_assoc] at hadm
        exact absurd hadm hrest

/-- What a timeout of a polled transfer with its command sent keeps (R236). -/
theorem exec_transfer_timeout {i : Instr} {s t : State} {dir : Dir} {buf : Addr} {start count : DWord}
    (hreq : transferRequest s.desc i = some (dir, buf, start, count)) (he : s.intEnabled = false)
    (h : exec i s = .next t) (htimeout : t.result = some ⟨.timeout, .none⟩) :
    ∃ evs, AddsEvents s t evs ∧ (commandEvent s.cfg (selectOpcode s.desc dir) ∈ evs →
      t.tag = tagOf (selectOpcode s.desc dir) ∧ t.cursorPtr.toNat = buf.toNat + 2 * wordsMoved evs ∧
      t.remaining.toNat * s.desc.sectorSize.toNat + wordsMoved evs = count.toNat * s.desc.sectorSize.toNat) := by
  obtain ⟨c, v, rfl, hcase⟩ := exec_transfer_cases hreq h
  obtain rfl : c = .timeout := congrArg OpResult.code (Option.some.inj htimeout)
  obtain ⟨_, n, evs, rfl, hwait⟩ | ⟨u, hu, _, ⟨w, b, hmoved, ⟨rfl, _⟩ | ⟨_, hne, _⟩⟩ | ⟨hmode, _⟩⟩ := hcase
  · exact ⟨evs, addsEvents_ranIo s n evs, fun hsent => absurd (hwait _ hsent) Bool.noConfusion⟩
  · obtain ⟨evs, hadds, hin, hout⟩ := hu.moved hmoved
    have hcount : wordsMoved evs = wordsMoved b := by rw [wordsMoved, hin, hout, wordsMoved]
    refine ⟨evs, hadds, fun _ => ?_⟩
    have htag := hmoved.tag_eq
    have hcursor := hmoved.cursor
    have hremaining := hmoved.remaining
    rw [← hcount] at hcursor hremaining
    obtain ⟨_, _, rfl, _⟩ := hu
    exact ⟨htag, hcursor, hremaining⟩
  · exact absurd rfl hne
  · exact absurd hmode (ne_true_of_eq_false he)

section

variable {s : State} {dir : Dir} {buf : Addr} {start count : DWord} {a b c p : Nat} {i : Instr}
  (hreq : transferRequest s.desc i = some (dir, buf, start, count)) (hi : s.identified = true) (ht : s.tag = .none)
  (he : s.intEnabled = false) (hargs : argsOk s.cfg s.desc buf start count = true) (hready : s.readyMeets a b c)
  (hissue : s.issueMeets (a + b + c + 3))

include hreq hi ht he hargs hready hissue

/-- A polled transfer with its command sent is the loop, from the first poll on. -/
theorem exec_transfer_polled :
    exec i s = finishMem (pollLoop (count.toNat - 1 + 1)
      ((s.inCommand dir buf count).ranIo (a + b + c + s.cfg.wait400Reads + 4) (s.commandEvents dir start count a b c))) := by
  have hplace : a + b + c + 3 + s.cfg.wait400Reads + 1 = a + b + c + s.cfg.wait400Reads + 4 := by omega
  rw [exec_of_transferRequest hreq, issueRW_polled hi ht hargs hready hissue he, hplace]

/-- Past the first poll comes the first unit. -/
theorem exec_transfer_first_unit (hp : p < s.cfg.pollBudget)
    (hmeets : s.waitMeets 7 false (a + b + c + s.cfg.wait400Reads + 4) p) :
    ∃ k, exec i s = finishMem (MemOut.andThen
      (transfer ((s.inCommand dir buf count).ranIo (a + b + c + s.cfg.wait400Reads + 4 + p + 1)
        (s.commandEvents dir start count a b c ++ s.attempts (a + b + c + s.cfg.wait400Reads + 4) (p + 1)))) k) := by
  rw [exec_transfer_polled hreq hi ht he hargs hready hissue,
    pollLoop_ranIo_of_waitMeets (s := s.inCommand dir buf count) _ hp hmeets]
  exact ⟨_, rfl⟩

end

/-- Settles O60: the first poll and the status before the first unit decide; a timeout with the command sent keeps the tag
and the cursor past the words moved. -/
theorem polledTransferExits : Obligations.PolledTransferExits := by
  refine ⟨?_, fun i s t dir buf start count hreq he h hres => exec_transfer_timeout hreq he h hres⟩
  intro i s dir buf start count a b c j n sent hreq hi ht he hargs hready hissue
  have hdata : (s.inCommand dir buf count).tag.isData = true := selectOpcode_isData _ _
  have hrem : (s.inCommand dir buf count).remaining ≠ 0#32 := count_ne_zero_of_argsOk hargs
  refine ⟨fun hmisses => ?_, fun p hp hmeets => ?_⟩
  · rw [exec_transfer_polled hreq hi ht he hargs hready hissue,
      pollLoop_ranIo_of_waitMisses (s := s.inCommand dir buf count) _ hmisses]
    rfl
  · intro d u
    obtain ⟨rest, hfirst⟩ := exec_transfer_first_unit hreq hi ht he hargs hready hissue hp hmeets
    refine ⟨fun hb => ?_, fun hb hd => ?_, fun x hb hd hx hadm hbad => ?_⟩
    · rw [hfirst, transfer_ranIo_of_busy hdata hrem hb]
      rfl
    · have hne : failedOr (s.nextByte d) .protocolViolation ≠ .ok := failedOr_ne nofun nofun
      rw [hfirst, transfer_ranIo_of_no_drq hdata hrem hb hd]
      exact congrArg finishMem (memAndThen_of_not_ok hne _ rest)
    · have hword : x < unitWords (s.inCommand dir buf count) := (unitWords_inCommand s dir buf count).symm ▸ hx
      rw [hfirst, transfer_ranIo_stuck hdata hrem hb hd hword hadm hbad]
      rfl

end Sys2Proof.Machine

/-! Proofs about what reads, writes, unit transfers and interrupts leave unchanged (spec/42_command_transfer.md R225;
spec/20_memory.md R76). -/

namespace Sys2Proof.Machine

/-! ### Runs without caller data -/

theorem Waits.commandRun {s t : State} (h : Waits s t) : CommandRun s t := by
  obtain ⟨_, _, rfl, _⟩ := h
  exact ⟨_, _, _, _, _, _, rfl⟩

/-- `t` is `s` after a run that may have read and parsed the identify words. -/
def IdentifyRun (s t : State) : Prop :=
  ∃ d b w, CommandRun { s with desc := d, identified := b, identBuf := w } t

theorem CommandRun.identifyRun {s t : State} (h : CommandRun s t) : IdentifyRun s t := ⟨_, _, _, h⟩

theorem IdentifyRun.tail {s t u : State} (h₁ : IdentifyRun s t) (h₂ : CommandRun t u) : IdentifyRun s u := by
  obtain ⟨d, b, w, h⟩ := h₁
  exact ⟨d, b, w, h.trans h₂⟩

theorem parsedInto_identifyRun (s : State) (w : IdentBuf) : IdentifyRun s (s.parsedInto w) := by
  obtain ⟨d, b, he⟩ := s.parsedInto_eq w
  exact ⟨d, b, w, he ▸ .refl _⟩

theorem IdentifyRun.after {s t u : State} (h₁ : CommandRun s t) (h₂ : IdentifyRun t u) : IdentifyRun s u := by
  obtain ⟨_, _, _, _, _, _, rfl⟩ := h₁
  obtain ⟨d, b, w, _, _, _, _, _, _, he⟩ := h₂
  exact ⟨d, b, w, _, _, _, _, _, _, he⟩

/-- The identify data phase (R182): it reads no word, or reads them and parses them. -/
theorem identifyData_cases (s : State) :
    ((identifyData s).1 ≠ .ok ∧ CommandRun s (identifyData s).2) ∨
    ∃ u w, CommandRun s u ∧
      identifyData s = (if parseIdentify w = none then .capabilityAbsent else .ok, u.parsedInto w) := by
  have hbusy := identifyData_ranIo_of_busy (s := s) (k := 0) (e := [])
  have hnoDrq := identifyData_ranIo_of_no_drq (s := s) (k := 0) (e := [])
  have hdrq := identifyData_ranIo_of_drq (s := s) (k := 0) (e := [])
  simp only [State.ranIo_zero] at hbusy hnoDrq hdrq
  cases hb : statusBsy (s.nextByte 0) with
  | true =>
    rw [hbusy hb]
    exact .inl ⟨ResultCode.noConfusion, _, _, _, _, _, _, rfl⟩
  | false =>
    cases hd : statusDrq (s.nextByte 0) with
    | false =>
      rw [hnoDrq hb hd]
      exact .inl ⟨failedOr_ne nofun nofun, _, _, _, _, _, _, rfl⟩
    | true => exact .inr ⟨_, _, ⟨_, _, _, _, _, _, rfl⟩, hdrq hb hd⟩

theorem identifyData_identifyRun (s : State) : IdentifyRun s (identifyData s).2 := by
  obtain ⟨_, hrun⟩ | ⟨u, w, hrun, he⟩ := identifyData_cases s
  · exact hrun.identifyRun
  · rw [he]
    exact .after hrun (parsedInto_identifyRun u w)

/-! ### A read or write -/

theorem CommandRun.identBuf_eq {s t : State} (h : CommandRun s t) : t.identBuf = s.identBuf := by
  obtain ⟨_, _, _, _, _, _, rfl⟩ := h
  rfl

theorem Issued.commandRun {s u : State} {dir : Dir} {buf : Addr} {count : DWord} (h : Issued s dir buf count u) :
    CommandRun s u := by
  obtain ⟨_, _, rfl, _⟩ := h
  exact ⟨_, _, _, _, _, _, rfl⟩

theorem Moved.commandRun {s t : State} {b : List Event} (h : Moved s t b) : ∃ m, CommandRun (s.withMem m) t := by
  obtain ⟨m, p, r, k, rfl⟩ := h.run
  exact ⟨m, _, _, _, _, _, _, rfl⟩

/-- The frame of a read or write with its command sent: a part of the buffer has moved. -/
theorem Issued.frame {s u v : State} {dir : Dir} {buf : Addr} {count : DWord} {b : List Event}
    (hu : Issued s dir buf count u) (hmoved : Moved u v b) (hm : Memory.wf s.mem = true) :
    (v.desc = s.desc ∧ v.identified = s.identified ∧ v.intEnabled = s.intEnabled ∧
      v.selectedDrive = s.selectedDrive ∧ v.identBuf = s.identBuf) ∧ (dir = .write → v.mem = s.mem) ∧
    ∀ x, x < buf.toNat ∨ buf.toNat + 2 * count.toNat * s.desc.sectorSize.toNat ≤ x →
      Memory.read v.mem x = Memory.read s.mem x := by
  have hissue := hu.commandRun
  obtain ⟨m, hrun⟩ := hmoved.commandRun
  obtain ⟨n, e, rfl, _⟩ := hu
  have hle : wordsMoved b ≤ count.toNat * s.desc.sectorSize.toNat := Nat.le_of_add_left_le hmoved.remaining.le
  refine ⟨?_, ?_, fun x hx => ?_⟩
  · exact ⟨hrun.desc_eq.trans hissue.desc_eq, hrun.identified_eq.trans hissue.identified_eq,
      hrun.intEnabled_eq.trans hissue.intEnabled_eq, hrun.selectedDrive_eq.trans hissue.selectedDrive_eq,
      hrun.identBuf_eq.trans hissue.identBuf_eq⟩
  · rintro rfl
    exact hmoved.delivered.mem_eq_of_write (selectOpcode_isRead _ _)
  · rw [Nat.mul_assoc] at hx
    refine hmoved.delivered.read_of_outside hm (hx.imp_right fun hx => ?_)
    exact le_trans (Nat.add_le_add_left (Nat.mul_le_mul_left 2 hle) _) hx

/-! ### One unit and an interrupt -/

/-- What a unit transfer or an interrupt leaves unchanged. -/
def UnitFrame (s t : State) : Prop :=
  (s.tag ≠ .identify → t.desc = s.desc ∧ t.identified = s.identified ∧ t.identBuf = s.identBuf) ∧
  (t.intEnabled = s.intEnabled ∧ t.selectedDrive = s.selectedDrive) ∧ (s.tag.isRead = false → t.mem = s.mem) ∧
  ∀ x, x < s.cursorPtr.toNat ∨ s.cursorPtr.toNat + 2 * unitWords s ≤ x → Memory.read t.mem x = Memory.read s.mem x

theorem CommandRun.unitFrame {s t : State} (h : CommandRun s t) : UnitFrame s t := by
  obtain ⟨_, _, _, _, _, _, rfl⟩ := h
  exact ⟨fun _ => ⟨rfl, rfl, rfl⟩, ⟨rfl, rfl⟩, fun _ => rfl, fun _ _ => rfl⟩

theorem IdentifyRun.unitFrame {s t : State} (h : IdentifyRun s t) (ht : s.tag = .identify) : UnitFrame s t := by
  obtain ⟨_, _, _, _, _, _, _, _, _, rfl⟩ := h
  exact ⟨fun hne => absurd ht hne, ⟨rfl, rfl⟩, fun _ => rfl, fun _ _ => rfl⟩

theorem UnitFrame.tail {s t u : State} (h₁ : UnitFrame s t) (h₂ : CommandRun t u) : UnitFrame s u := by
  obtain ⟨_, _, _, _, _, _, rfl⟩ := h₂
  exact h₁

theorem UnitMoved.unitFrame {s t : State} {evs : List Event} (h : UnitMoved s t evs) (hm : Memory.wf s.mem = true) :
    UnitFrame s t := by
  obtain ⟨m, k, rfl, hcount, hdel⟩ := h
  exact ⟨fun _ => ⟨rfl, rfl, rfl⟩, ⟨rfl, rfl⟩, hdel.mem_eq_of_write, fun x hx =>
    hdel.read_of_outside hm (by rwa [hcount])⟩

theorem transfer_unitFrame {s : State} {r : OpOut} (hm : Memory.wf s.mem = true) (h : transfer s = .ok r) :
    UnitFrame s r.2 := by
  obtain ⟨c, u, v, he, _, hwait, rfl | rfl⟩ | ⟨_, ⟨u, b, he, hunit⟩ | ⟨⟨f, he⟩, _⟩⟩ := transfer_cases s <;>
    rw [he] at h <;> cases h
  · exact hwait.commandRun.unitFrame
  · exact hwait.commandRun.endCommand.unitFrame
  · exact hunit.unitFrame hm

theorem completeUnit_commandRun (r : OpOut) : CommandRun r.2 (completeUnit r).2 := by
  have hread := ((wait400_waits r.2).trans (portRead8_waits .altStatus _)).commandRun
  unfold completeUnit completionCheck
  split
  · dsimp only
    split
    · exact hread.endCommand
    · exact hread
  · exact .refl _

theorem dispatchNoUnit_unitFrame (status : Byte) (s : State) : UnitFrame s (dispatchNoUnit status s).2 := by
  have hcomplete : UnitFrame s (completeUnit (.ok, s)).2 := (completeUnit_commandRun (.ok, s)).unitFrame
  unfold dispatchNoUnit
  split
  · exact (CommandRun.refl s).unitFrame
  · cases ht : s.tag with
    | identify => exact ((identifyData_identifyRun s).unitFrame ht).tail (completeUnit_commandRun _)
    | none => exact (CommandRun.refl s).unitFrame
    | _ => exact hcomplete

theorem dispatch_unitFrame {status : Byte} {s : State} {r : OpOut} (hm : Memory.wf s.mem = true)
    (h : dispatch status s = .ok r) : UnitFrame s r.2 := by
  unfold dispatch at h
  split at h
  · split at h
    · cases h
    · next hr =>
      cases h
      exact (transfer_unitFrame hm hr).tail (completeUnit_commandRun _)
  · cases h
    exact dispatchNoUnit_unitFrame status s

theorem onInterrupt_unitFrame {s t : State} (hm : Memory.wf s.mem = true) (h : exec .onInterrupt s = .next t) :
    UnitFrame s t := by
  rw [exec_onInterrupt] at h
  cases hd : dispatch (s.nextByte 0) (s.ranIo 1 [s.statusRead]) with
  | error f =>
    rw [hd] at h
    cases h
  | ok r =>
    rw [hd] at h
    cases h
    have hframe : UnitFrame s r.2 := dispatch_unitFrame (s := s.ranIo 1 [s.statusRead]) hm hd
    exact hframe

/-- Settles O46: the words that moved lie in the buffer, or in the unit at the cursor. -/
theorem transferFrame : Obligations.TransferFrame := by
  refine ⟨fun i s t dir buf start count hreq hm h => ?_, fun i s t hi hm h => ?_⟩
  · obtain ⟨c, v, rfl, ⟨_, _, _, rfl, _⟩ | ⟨u, hu, _, ⟨w, b, hmoved, ⟨rfl, _⟩ | ⟨rfl, _⟩⟩ | ⟨_, rfl⟩⟩⟩ :=
      exec_transfer_cases hreq h
    · exact ⟨⟨rfl, rfl, rfl, rfl, rfl⟩, fun _ => rfl, fun _ _ => rfl⟩
    · have hframe := hu.frame hmoved hm
      exact hframe
    · have hframe := hu.frame hmoved hm
      exact hframe
    · obtain ⟨b, hb⟩ := (Waits.refl v).moved
      have hframe := hu.frame hb hm
      exact hframe
  · obtain rfl | rfl := hi
    · cases htransfer : transfer s with
      | error f =>
        have hstuck : exec .transferUnit s = .fault f := congrArg finishMem htransfer
        rw [hstuck] at h
        cases h
      | ok r =>
        have hanswer : exec .transferUnit s = .next (r.2.setResult r.1 .none) := congrArg finishMem htransfer
        rw [hanswer] at h
        cases h
        exact transfer_unitFrame hm htransfer
    · exact onInterrupt_unitFrame hm h

end Sys2Proof.Machine

/-! Proofs about bring-up (spec/44_bringup_api.md R310 to R313): what each of its steps leaves of the mode, the drive and the
descriptor wherever it answers OK. -/

namespace Sys2Proof.Machine

/-! ### Chains of operations -/

/-- A property of how a chain ends. -/
theorem andThen_induction {P : OpOut → Prop} {r : OpOut} {k : State → OpOut} (hfail : r.1 ≠ .ok → P r)
    (hok : r.1 = .ok → P (k r.2)) : P (OpOut.andThen r k) := by
  obtain ⟨hne, he⟩ | ⟨h, he⟩ := andThen_cases r k
  · rw [he]
    exact hfail hne
  · rw [he]
    exact hok h

/-! ### Drive select (R150) -/

/-- A drive select that answers OK has recorded the drive; any other has only made port accesses. -/
theorem driveSelect_cases (dev1 : BitVec 1) (s : State) :
    ((driveSelect dev1 s).1 ≠ .ok ∧ IoRun s (driveSelect dev1 s).2) ∨
    ((driveSelect dev1 s).1 = .ok ∧ s.tag = .none ∧
      ∃ u, IoRun s u ∧ (driveSelect dev1 s).2 = u.setSelectedDrive dev1) := by
  have hread := portRead8_ioRun .altStatus s
  unfold driveSelect
  split
  · exact .inl ⟨nofun, .refl s⟩
  · next ht =>
    dsimp only
    split
    · exact .inl ⟨nofun, hread⟩
    · have hselect := fun n => ((hread.trans (portWrite8_ioRun .drvHead (drvHeadByte dev1 0#4) _)).trans
        (wait400_ioRun _)).trans (pollBusy_ioRun n _)
      refine andThen_induction (P := fun r => (r.1 ≠ .ok ∧ IoRun s r.2) ∨
        (r.1 = .ok ∧ s.tag = .none ∧ ∃ u, IoRun s u ∧ r.2 = u.setSelectedDrive dev1))
        (fun hne => .inl ⟨hne, hselect _⟩) fun _ => ?_
      have hlast := fun n => (hselect n).trans (portRead8_ioRun .altStatus _)
      split
      · exact .inl ⟨nofun, hlast _⟩
      · exact .inr ⟨rfl, not_not.1 ht, _, hlast _, rfl⟩

/-! ### IDENTIFY (R181) -/

/-- How an operation of IDENTIFY ends: it touches only what IDENTIFY may, and OK means that the parse was committed. -/
def IdentifyEnd (s : State) (r : OpOut) : Prop := IdentifyRun s r.2 ∧ (r.1 = .ok → r.2.identified = true)

theorem identifyData_end (s : State) : IdentifyEnd s (identifyData s) := by
  refine ⟨identifyData_identifyRun s, fun hok => ?_⟩
  obtain ⟨hne, _⟩ | ⟨u, w, _, he⟩ := identifyData_cases s
  · exact absurd hok hne
  · rw [he] at hok ⊢
    cases hparse : parseIdentify w with
    | none =>
      rw [if_pos hparse] at hok
      cases hok
    | some f =>
      rw [State.parsedInto_of_some hparse]
      rfl

theorem identifyFinish_commandRun (p : ResultCode) (s : State) : CommandRun s (identifyFinish p s).2 :=
  .andThen ((wait400_ioRun s).trans (pollBusy_ioRun _ _)).commandRun fun u => finishCheck_commandRun u

/-- The end of IDENTIFY answers OK only after a parse that did. -/
theorem identifyFinish_ok {p : ResultCode} {s : State} (h : (identifyFinish p s).1 = .ok) : p = .ok := by
  revert h
  refine andThen_induction (P := fun r => r.1 = .ok → p = .ok) (fun hne h => absurd h hne) fun _ h => ?_
  dsimp only at h
  split at h <;> assumption

theorem IdentifyEnd.after {s t : State} {r : OpOut} (h₁ : CommandRun s t) (h₂ : IdentifyEnd t r) : IdentifyEnd s r := by
  obtain ⟨hrun, hok⟩ := h₂
  exact ⟨.after h₁ hrun, hok⟩

theorem identifyPolled_end (s : State) : IdentifyEnd s (identifyPolled s) := by
  have hpoll := (pollBusy_ioRun s.cfg.pollBudget s).commandRun
  refine andThen_induction (fun hne => ⟨hpoll.identifyRun, fun h => absurd h hne⟩) fun _ => .after hpoll ?_
  have hdata := identifyData_end (pollBusy s.cfg.pollBudget s).2
  dsimp only
  split
  · exact hdata
  · split
    · exact hdata
    · have hfinish := identifyFinish_commandRun (identifyData (pollBusy s.cfg.pollBudget s).2).1
        (identifyData (pollBusy s.cfg.pollBudget s).2).2
      exact ⟨hdata.1.tail hfinish, fun h => hfinish.identified_eq.trans (hdata.2 (identifyFinish_ok h))⟩

/-- In polled mode IDENTIFY answers OK only on an identified block. -/
theorem identifyCommand_end {s : State} (hi : s.intEnabled = false) : IdentifyEnd s (identifyCommand s) := by
  have hread := (portRead8_ioRun .altStatus s).commandRun
  unfold identifyCommand
  split
  · exact ⟨(CommandRun.refl s).identifyRun, nofun⟩
  · dsimp only
    split
    · exact ⟨hread.identifyRun, nofun⟩
    · have hissue := hread.trans (issueCommand_commandRun .identify _)
      refine andThen_induction (fun hne => ⟨hissue.identifyRun, fun h => absurd h hne⟩) fun _ => ?_
      rw [if_neg (ne_true_of_eq_false (hissue.intEnabled_eq.trans hi))]
      exact .after hissue (identifyPolled_end _)

/-! ### The steps of bring-up (R310, R311, R312) -/

/-- What `negotiateMultiple` leaves wherever it answers OK: no block size without support, else one within the maximum. -/
def State.blockSizeOk (s : State) : Prop :=
  (s.desc.hasMultipleCmd = false → s.desc.currentMultipleSectorSize = 0#8) ∧
  s.desc.currentMultipleSectorSize.toNat ≤ s.desc.maxMultipleSectorSize.toNat

theorem IoRun.blockSizeOk {s t : State} (h : IoRun s t) (hs : s.blockSizeOk) : t.blockSizeOk := by
  unfold State.blockSizeOk
  rwa [h.desc_eq]

theorem negotiateMultiple_cases {s : State} (ht : s.tag = .none) :
    ((negotiateMultiple s).1 ≠ .ok ∧ CommandRun s (negotiateMultiple s).2) ∨
    ((negotiateMultiple s).1 = .ok ∧ (negotiateMultiple s).2.tag = .none ∧ (negotiateMultiple s).2.blockSizeOk ∧
      ∃ m u, CommandRun s u ∧ (negotiateMultiple s).2 = u.setCurrentMultiple m) := by
  unfold negotiateMultiple
  split
  · exact .inr ⟨rfl, ht, ⟨fun _ => rfl, Nat.zero_le _⟩, 0#8, s, .refl s, rfl⟩
  · generalize (if s.cfg.multipleRequest.toNat ≤ s.desc.maxMultipleSectorSize.toNat then s.cfg.multipleRequest
      else s.desc.maxMultipleSectorSize) = m
    obtain hfail | ⟨hok, _, harg, u, hu, htag, he⟩ := setMultipleCommand_cases m s
    · exact .inl hfail
    · obtain ⟨_, hsupport, hmax⟩ := (multipleArgOk_eq_true_iff _ _).1 harg
      refine .inr ⟨hok, he ▸ htag, ?_, m, u, hu, he⟩
      rw [he, State.blockSizeOk]
      refine ⟨fun hnone => absurd (hnone.symm.trans ?_) Bool.false_ne_true, ?_⟩
      · exact (congrArg Descriptor.hasMultipleCmd hu.desc_eq).trans hsupport
      · exact hmax.trans_eq (congrArg (fun d => d.maxMultipleSectorSize.toNat) hu.desc_eq).symm

/-- A confirmation that answers OK has read back the wanted drive. -/
theorem confirmAndDrain_ok {s : State} (h : (confirmAndDrain s).1 = .ok) :
    ∃ evs v, AddsEvents s (confirmAndDrain s).2 evs ∧ .portRead8 (portAddr s.cfg .drvHead) v ∈ evs ∧
      v.getLsbD 4 = s.cfg.driveIndex.getLsbD 0 := by
  unfold confirmAndDrain at h ⊢
  rw [portRead8_eq] at h ⊢
  dsimp only at h ⊢
  split at h
  · cases h
  · next hbit =>
    rw [if_neg hbit]
    obtain ⟨_, _, tr, hdrain⟩ := drain_ioRun (s.ranIo 1 [.portRead8 (portAddr s.cfg .drvHead) (s.nextByte 0)])
    have hrest : AddsEvents (s.ranIo 1 [.portRead8 (portAddr s.cfg .drvHead) (s.nextByte 0)])
        (drain (s.ranIo 1 [.portRead8 (portAddr s.cfg .drvHead) (s.nextByte 0)])) tr.reverse := by
      rw [hdrain, AddsEvents, List.reverse_reverse]
    exact ⟨_, s.nextByte 0, (addsEvents_ranIo s 1 _).trans hrest, List.mem_cons_self, not_not.1 hbit⟩

/-- The block as bring-up hands it to the confirmation of the drive. -/
structure BroughtUp (s u : State) : Prop where
  trace : Traces s.cfg (fun _ => True) s u
  identified : u.identified = true
  tag : u.tag = .none
  drive : u.selectedDrive = s.cfg.driveIndex
  blockSize : u.blockSizeOk

/-- How bring-up ends: in polled mode, and OK comes from the confirmation of the drive on a block brought up. -/
def BringUpEnd (s : State) (r : OpOut) : Prop :=
  r.2.intEnabled = false ∧ (r.1 = .ok → ∃ u, BroughtUp s u ∧ r = confirmAndDrain u)

theorem BringUpEnd.of_not_ok {s : State} {r : OpOut} (hi : r.2.intEnabled = false) (hne : r.1 ≠ .ok) :
    BringUpEnd s r := ⟨hi, fun h => absurd h hne⟩

theorem IdentifyRun.intEnabled_eq {s t : State} (h : IdentifyRun s t) : t.intEnabled = s.intEnabled := by
  obtain ⟨_, _, _, hrun⟩ := h
  exact hrun.intEnabled_eq

theorem IdentifyRun.selectedDrive_eq {s t : State} (h : IdentifyRun s t) : t.selectedDrive = s.selectedDrive := by
  obtain ⟨_, _, _, hrun⟩ := h
  exact hrun.selectedDrive_eq

theorem reset_intEnabled {s : State} (hi : s.intEnabled = false) : (reset s).2.intEnabled = false := by
  obtain ⟨_, h⟩ | ⟨_, u, h, he⟩ | ⟨_, u, h, he⟩ := reset_cases s
  · exact h.intEnabled_eq.trans hi
  · rw [he]
    exact h.intEnabled_eq
  · rw [he]
    exact h.intEnabled_eq.trans hi

section

variable {s t : State} (htrace : Traces s.cfg (fun _ => True) s t) (hi : t.intEnabled = false)

include htrace hi

theorem negotiateMultiple_bringUpEnd (hid : t.identified = true) (ht : t.tag = .none)
    (hd : t.selectedDrive = s.cfg.driveIndex) :
    BringUpEnd s (OpOut.andThen (negotiateMultiple t) confirmAndDrain) := by
  have htrace' := htrace.trans (anyTrace s.cfg) (negotiateMultiple_traces (anyTrace s.cfg) t)
  obtain ⟨hne, hrun⟩ | ⟨hok, htag, hsize, m, u, hrun, he⟩ := negotiateMultiple_cases ht
  · exact andThen_induction (.of_not_ok (hrun.intEnabled_eq.trans hi)) fun hok => absurd hok hne
  · refine andThen_induction (fun hne => absurd hok hne) fun _ => ⟨?_, fun _ => ⟨_, ⟨htrace', ?_, htag, ?_, hsize⟩, rfl⟩⟩
    · refine (confirmAndDrain_ioRun _).intEnabled_eq.trans ?_
      rw [he]
      exact hrun.intEnabled_eq.trans hi
    · rw [he]
      exact hrun.identified_eq.trans hid
    · rw [he]
      exact hrun.selectedDrive_eq.trans hd

theorem identifyCommand_bringUpEnd (hd : t.selectedDrive = s.cfg.driveIndex) :
    BringUpEnd s (OpOut.andThen (identifyCommand t) fun u =>
      OpOut.andThen (negotiateMultiple u) confirmAndDrain) := by
  obtain ⟨hrun, hid⟩ := identifyCommand_end hi
  have hmode := hrun.intEnabled_eq.trans hi
  refine andThen_induction (.of_not_ok hmode) fun hok => ?_
  exact negotiateMultiple_bringUpEnd (htrace.trans (anyTrace _) (identifyCommand_traces (anyTrace _) t)) hmode (hid hok)
    (identifyCommand_ok_tag hi hok) (hrun.selectedDrive_eq.trans hd)

theorem driveSelect_bringUpEnd :
    BringUpEnd s (OpOut.andThen (driveSelect t.cfg.driveIndex t) fun u => OpOut.andThen (identifyCommand u) fun u =>
      OpOut.andThen (negotiateMultiple u) confirmAndDrain) := by
  obtain ⟨hcfg, _⟩ := htrace rfl
  obtain ⟨_, hmode⟩ := driveSelect_keeps t.cfg.driveIndex t
  refine andThen_induction (.of_not_ok (hmode.trans hi)) fun hok => ?_
  refine identifyCommand_bringUpEnd (htrace.trans (anyTrace _) (driveSelect_traces (anyTrace _) _ t)) (hmode.trans hi) ?_
  obtain ⟨hne, _⟩ | ⟨_, _, u, _, he⟩ := driveSelect_cases t.cfg.driveIndex t
  · exact absurd hok hne
  · rw [he, hcfg]
    rfl

end

theorem bringUp_end (s : State) : BringUpEnd s (bringUp s) := by
  have hstart : Traces s.cfg (fun _ => True) s ((s.setIntEnabled false).setIdentified false) :=
    Traces.silent (anyTrace _) rfl rfl
  have hmode : (reset ((s.setIntEnabled false).setIdentified false)).2.intEnabled = false := reset_intEnabled rfl
  exact andThen_induction (.of_not_ok hmode) fun _ =>
    driveSelect_bringUpEnd (hstart.trans (anyTrace _) (reset_traces (anyTrace _) _)) hmode

/-- Settles O57: what `bringUp` leaves, and the events up to the read-back and after it. -/
theorem initializeLeavesPolledMode : Obligations.InitializeLeavesPolledMode := by
  intro s
  obtain ⟨t, _, hexec, hmem, _⟩ := onlyTransfersTouchMemory .initializeBlock s rfl
  have hbringUp : exec .initializeBlock s = .next ((bringUp s).2.setResult (bringUp s).1 .none) := rfl
  cases hexec.symm.trans hbringUp
  obtain ⟨hmode, hok⟩ := bringUp_end s
  refine ⟨_, _, hbringUp, rfl, hmode, hmem, fun hcode => ?_⟩
  obtain ⟨u, hu, he⟩ := hok hcode
  obtain ⟨hcfg, tr, _, htrace⟩ := hu.trace rfl
  have hio := confirmAndDrain_ioRun u
  have hsize := hio.blockSizeOk hu.blockSize
  rw [he] at hcode ⊢
  obtain ⟨evs, v, hadds, hread, hbit⟩ := confirmAndDrain_ok hcode
  rw [hcfg] at hread hbit
  have hbefore : AddsEvents s u tr.reverse := by rw [AddsEvents, List.reverse_reverse, htrace]
  exact ⟨hio.identified_eq.trans hu.identified, hio.tag_eq.trans hu.tag, hio.selectedDrive_eq.trans hu.drive, hsize.1,
    hsize.2, _, v, hbefore.trans hadds, List.mem_append_right _ hread, hbit⟩

end Sys2Proof.Machine

/-! Proofs about a bring-up that completes (spec/44_bringup_api.md R310 to R313): each of its steps as a run `State.ranIo`, one
after the other. -/

namespace Sys2Proof.Machine

/-! ### IDENTIFY, the block size, and the confirmation of the drive -/

section

variable {s : State} {k : Nat} {e : List Event}

theorem State.commit_endCommand_ranIo (s : State) (k : Nat) (e : List Event) (w : IdentBuf) (f : Descriptor) :
    (((s.ranIo k e).setIdentBuf w).commit f).endCommand = (((s.setIdentBuf w).commit f).endCommand).ranIo k e := rfl

/-- A polled IDENTIFY that ends well on a legal answer. -/
theorem identifyCommand_ranIo_of_identifyMeets {p q : Nat} {f : Descriptor} (ht : s.tag = .none)
    (hi : s.intEnabled = false) (h : s.identifyMeets k p q)
    (hgood : statusFailed (s.nextByte (k + 2 * s.cfg.wait400Reads + p + q + 261)) = false)
    (hf : parseIdentify (s.identifyWords k p) = some f) :
    identifyCommand (s.ranIo k e) =
      (.ok, (((s.setIdentBuf (s.identifyWords k p)).commit f).endCommand).ranIo
        (k + 2 * s.cfg.wait400Reads + p + q + 262) (e ++ s.identifyEvents k p q)) := by
  obtain ⟨hdata, hq, hm, hidle⟩ := h
  have hlast : k + 2 * s.cfg.wait400Reads + p + 260 + q + 1 = k + 2 * s.cfg.wait400Reads + p + q + 261 := by omega
  have hrun := identifyCommand_ranIo_of_second_waitMeets (e := e) ht hi hdata hq hm
  rw [hlast] at hidle
  simp only [if_pos hidle, State.parsedInto_of_some hf, identifyCode, hf, failedOr, hgood,
    State.commit_endCommand_ranIo, Bool.false_eq_true, reduceCtorEq, if_false] at hrun
  exact hrun

theorem negotiateMultiple_ranIo_of_no_support (h : s.desc.hasMultipleCmd = false) :
    negotiateMultiple (s.ranIo k e) = (.ok, (s.setCurrentMultiple 0#8).ranIo k e) := by
  rw [negotiateMultiple, State.ranIo_desc, h]
  rfl

/-- The block size that bring-up asks for (R311). -/
def wantedMultiple (c : Config) (d : Descriptor) : Byte :=
  if c.multipleRequest.toNat ≤ d.maxMultipleSectorSize.toNat then c.multipleRequest else d.maxMultipleSectorSize

theorem negotiateMultiple_ranIo_of_support (h : s.desc.hasMultipleCmd = true) :
    negotiateMultiple (s.ranIo k e) = setMultipleCommand (wantedMultiple s.cfg s.desc) (s.ranIo k e) := by
  rw [negotiateMultiple, State.ranIo_desc, h]
  rfl

/-- On a device that supports it, a non-zero request clamps to an admitted size. -/
theorem multipleArgOk_wantedMultiple {c : Config} {d : Descriptor} (h : d.hasMultipleCmd = true)
    (hmax : d.maxMultipleSectorSize ≠ 0#8) (hreq : c.multipleRequest ≠ 0#8) :
    multipleArgOk d (wantedMultiple c d) = true := by
  rw [multipleArgOk_eq_true_iff, wantedMultiple]
  split
  · next hle => exact ⟨hreq, h, hle⟩
  · exact ⟨hmax, h, le_rfl⟩

theorem negotiateMultiple_ranIo_of_multipleMeets {a b c p : Nat} (hi : s.identified = true) (ht : s.tag = .none)
    (he : s.intEnabled = false) (h : s.desc.hasMultipleCmd = true) (hmax : s.desc.maxMultipleSectorSize ≠ 0#8)
    (hreq : s.cfg.multipleRequest ≠ 0#8) (hmeets : s.multipleMeets k a b c p)
    (hgood : statusFailed (s.nextByte (k + a + b + c + s.cfg.wait400Reads + p + 5)) = false) :
    negotiateMultiple (s.ranIo k e) =
      (.ok, (s.endCommand.setCurrentMultiple (wantedMultiple s.cfg s.desc)).ranIo
        (k + a + b + c + s.cfg.wait400Reads + p + 6)
        (e ++ s.multipleEvents (wantedMultiple s.cfg s.desc) k a b c p)) := by
  rw [negotiateMultiple_ranIo_of_support h, setMultipleCommand_ranIo_of_multipleMeets hi ht he
    (multipleArgOk_wantedMultiple h hmax hreq) hmeets, hgood]
  rfl

/-- The read-back of the drive, and the drain where it is the wanted one (R312, R313). -/
theorem confirmAndDrain_ranIo (s : State) (k : Nat) (e : List Event) :
    confirmAndDrain (s.ranIo k e) =
      let u := s.ranIo (k + 1) (e ++ [.portRead8 (portAddr s.cfg .drvHead) (s.nextByte k)])
      if (s.nextByte k).getLsbD 4 ≠ s.cfg.driveIndex.getLsbD 0 then (.protocolViolation, u) else (.ok, drain u) := by
  simp only [confirmAndDrain, portRead8_ranIo, State.ranIo_cfg]

theorem confirmAndDrain_ranIo_of_wanted {n : Nat} (hbit : (s.nextByte k).getLsbD 4 = s.cfg.driveIndex.getLsbD 0)
    (h : s.drainMeets (k + 1) n) :
    confirmAndDrain (s.ranIo k e) = (.ok, s.ranIo (k + 1 + s.drainCount n)
      (e ++ .portRead8 (portAddr s.cfg .drvHead) (s.nextByte k) :: s.drainEvents (k + 1) n)) := by
  rw [confirmAndDrain_ranIo, if_neg (not_not_intro hbit), drain_ranIo_of_drainMeets h, List.append_assoc,
    List.singleton_append]

theorem confirmAndDrain_ranIo_of_other (hbit : (s.nextByte k).getLsbD 4 ≠ s.cfg.driveIndex.getLsbD 0) :
    confirmAndDrain (s.ranIo k e) =
      (.protocolViolation, s.ranIo (k + 1) (e ++ [.portRead8 (portAddr s.cfg .drvHead) (s.nextByte k)])) :=
  (confirmAndDrain_ranIo s k e).trans (if_pos hbit)

end

/-! ### From the reset to the block size -/

/-- The block once its device is identified: polled mode, the wanted drive, the words and their parse, no command. -/
def State.broughtUp (s : State) (w : IdentBuf) (f : Descriptor) : State :=
  ((((s.setIntEnabled false).setSelectedDrive s.cfg.driveIndex).setIdentBuf w).commit f).endCommand

/-- The events of a bring-up up to there. -/
def State.bringUpEvents (s : State) (p₁ p₂ p q : Nat) : List Event :=
  s.resetEvents 0 p₁ ++ [.portWrite8 (portAddr s.cfg .devCtl) 0x02#8] ++
    s.selectEvents s.cfg.driveIndex (s.cfg.wait400Reads + p₁ + 3) p₂ ++
    s.identifyEvents (s.cfg.wait400Reads + p₁ + 3 + s.cfg.wait400Reads + p₂ + 3) p q

/-- The reset, the drive select and IDENTIFY, each against a device that answers it. -/
theorem bringUp_of_identifyMeets {s : State} {p₁ p₂ p q k : Nat} {f : Descriptor} (hreset : s.resetMeets 0 p₁)
    (hselect : s.selectMeets (s.cfg.wait400Reads + p₁ + 3) p₂)
    (hk : s.cfg.wait400Reads + p₁ + 3 + s.cfg.wait400Reads + p₂ + 3 = k) (hident : s.identifyMeets k p q)
    (hgood : statusFailed (s.nextByte (k + 2 * s.cfg.wait400Reads + p + q + 261)) = false)
    (hf : parseIdentify (s.identifyWords k p) = some f) :
    bringUp s = OpOut.andThen (negotiateMultiple ((s.broughtUp (s.identifyWords k p) f).ranIo
      (k + 2 * s.cfg.wait400Reads + p + q + 262) (s.bringUpEvents p₁ p₂ p q))) confirmAndDrain := by
  subst hk
  have h₁ := reset_ranIo_of_resetMeets (s := (s.setIntEnabled false).setIdentified false) (e := []) hreset
  rw [State.ranIo_zero, List.nil_append, Nat.zero_add] at h₁
  have h₂ := driveSelect_ranIo_of_selectMeets (dev1 := s.cfg.driveIndex)
    (s := (((s.setIntEnabled false).setIdentified false).setSelectedDrive 0#1).endCommand)
    (e := s.resetEvents 0 p₁ ++ [.portWrite8 (portAddr s.cfg .devCtl) 0x02#8]) rfl hselect
  have h₃ := identifyCommand_ranIo_of_identifyMeets
    (s := ((((s.setIntEnabled false).setIdentified false).setSelectedDrive 0#1).endCommand).setSelectedDrive
      s.cfg.driveIndex)
    (e := s.resetEvents 0 p₁ ++ [.portWrite8 (portAddr s.cfg .devCtl) 0x02#8] ++
      s.selectEvents s.cfg.driveIndex (s.cfg.wait400Reads + p₁ + 3) p₂) rfl rfl hident hgood hf
  rw [bringUp, h₁, andThen_ok]
  refine (congrArg (OpOut.andThen · _) h₂).trans ?_
  rw [andThen_ok]
  refine (congrArg (OpOut.andThen · _) h₃).trans ?_
  rw [andThen_ok]
  rfl

/-! ### The statement -/

theorem exec_initializeBlock (s : State) : exec .initializeBlock s = finish (bringUp s) := rfl

theorem State.broughtUp_endCommand (s : State) (w : IdentBuf) (f : Descriptor) :
    (s.broughtUp w f).endCommand = s.broughtUp w f := rfl

/-- Both ends of a bring-up whose block size is settled, as the instruction shows them. -/
theorem bringUpEnds {s : State} {w : IdentBuf} {f : Descriptor} {size : Byte} {k n : Nat} {e : List Event}
    (h : bringUp s = confirmAndDrain (((s.broughtUp w f).setCurrentMultiple size).ranIo k e)) :
    ((s.nextByte k).getLsbD 4 = s.cfg.driveIndex.getLsbD 0 → s.drainMeets (k + 1) n →
      exec .initializeBlock s = .next (((((((s.ranIo (k + 1 + s.drainCount n)
        (e ++ .portRead8 (portAddr s.cfg .drvHead) (s.nextByte k) :: s.drainEvents (k + 1) n)).setIntEnabled
          false).setSelectedDrive s.cfg.driveIndex).setIdentBuf w).commit f).setCurrentMultiple size).endCommand.setResult
            .ok .none)) ∧
    ((s.nextByte k).getLsbD 4 ≠ s.cfg.driveIndex.getLsbD 0 →
      exec .initializeBlock s = .next (((((((s.ranIo (k + 1)
        (e ++ [.portRead8 (portAddr s.cfg .drvHead) (s.nextByte k)])).setIntEnabled
          false).setSelectedDrive s.cfg.driveIndex).setIdentBuf w).commit f).setCurrentMultiple size).endCommand.setResult
            .protocolViolation .none)) := by
  rw [exec_initializeBlock, h]
  refine ⟨fun hbit hdrain => finish_eq_next ?_, fun hbit => finish_eq_next ?_⟩
  · exact confirmAndDrain_ranIo_of_wanted (s := (s.broughtUp w f).setCurrentMultiple size) hbit hdrain
  · exact confirmAndDrain_ranIo_of_other (s := (s.broughtUp w f).setCurrentMultiple size) hbit

/-- Settles O56: the steps up to the identified block, then the block size, then the confirmation of the drive. -/
theorem initializeCompletes : Obligations.InitializeCompletes := by
  intro s p₁ p₂ p q f n w k₁ k₂ k₃ m start readBack left ends hreset hselect hident hgood hf
  have hrun := bringUp_of_identifyMeets hreset hselect rfl hident hgood hf
  obtain ⟨_, hmax, _⟩ := commit_descriptorOk (s := s) hf
  refine ⟨fun hnone => ?_, ?_⟩
  · have hsize := negotiateMultiple_ranIo_of_no_support (s := s.broughtUp (s.identifyWords k₂ p) f) (k := k₃)
      (e := start) hnone
    exact bringUpEnds (hrun.trans (congrArg (OpOut.andThen · confirmAndDrain) hsize))
  · intro a b c e hsupport hreq hmultiple k₄ hsized
    have hne : f.maxMultipleSectorSize ≠ 0#8 := fun h => Bool.false_ne_true ((hmax.2 h).symm.trans hsupport)
    have hsize := negotiateMultiple_ranIo_of_multipleMeets (s := s.broughtUp (s.identifyWords k₂ p) f) (k := k₃)
      (e := start) rfl rfl rfl hsupport hne hreq hmultiple hsized
    rw [State.broughtUp_endCommand] at hsize
    exact bringUpEnds (hrun.trans (congrArg (OpOut.andThen · confirmAndDrain) hsize))

end Sys2Proof.Machine
